-- ==== Sys2Proof/Word.lean ====
section
/-! DEFINITION. The widths of the block: bytes, command words, operands, block ports and buffer
indices (00_scope.md R6, R7). -/

namespace Sys2Proof

/-- One byte of the packet buffer (R6). -/
abbrev Byte := BitVec 8

/-- The command word `CMD` (R7, R60). -/
abbrev Word := BitVec 16

/-- The operand `DIN` and the result `DOUT` (R7). -/
abbrev Operand := BitVec 64

/-- The block ports `BLK_IN` and `BLK_OUT`: 188 bytes of 8 bits (R7). -/
abbrev Block := BitVec 1504

/-- The 2-bit response `STATUS` (R7). -/
abbrev StatusCode := BitVec 2

/-- An index of the packet buffer, 0..187: `PKT = 188` (R6). -/
abbrev Index := Fin 188

end Sys2Proof
end

