-- ==== Sys2Proof/Syntax.lean ====
section
/-! DEFINITION. The commands of the block, one constructor per row of the opcode map
(30_encoding.md R65; spec/opcode_table.json). `DIN` and `BLK_IN` travel beside the word (R60), so they
are no part of the syntax. -/

namespace Sys2Proof

/-- A command. Only format X carries a field of its own, the byte index `IDX` (R62). -/
inductive Instr where
  /-- NULL_PKT (R190) -/
  | nullPkt
  /-- BLK_LOAD (R192) -/
  | blkLoad
  /-- BLK_READ (R193) -/
  | blkRead
  /-- BYTE_RD (R195) -/
  | byteRd (idx : BitVec 8)
  /-- BYTE_WR (R196) -/
  | byteWr (idx : BitVec 8)
  /-- SYNC_OK (R102) -/
  | syncOk
  /-- SET_TEI (R103) -/
  | setTei
  /-- GET_TEI (R104) -/
  | getTei
  /-- SET_PUSI (R105) -/
  | setPusi
  /-- GET_PUSI (R106) -/
  | getPusi
  /-- SET_TP (R107) -/
  | setTp
  /-- GET_TP (R108) -/
  | getTp
  /-- SET_PID (R109) -/
  | setPid
  /-- GET_PID (R110) -/
  | getPid
  /-- SET_SC (R111) -/
  | setSc
  /-- GET_SC (R112) -/
  | getSc
  /-- GET_AFC (R113) -/
  | getAfc
  /-- SET_PAYLOAD (R114) -/
  | setPayload
  /-- GET_PAYLOAD (R115) -/
  | getPayload
  /-- SET_CC (R116) -/
  | setCc
  /-- GET_CC (R117) -/
  | getCc
  /-- CC_RESET (R118) -/
  | ccReset
  /-- SET_AF_LEN (R140) -/
  | setAfLen
  /-- GET_AF_LEN (R143) -/
  | getAfLen
  /-- SET_DISC (R144) -/
  | setDisc
  /-- CLR_DISC (R145) -/
  | clrDisc
  /-- GET_DISC (R146) -/
  | getDisc
  /-- SET_RAI (R147) -/
  | setRai
  /-- GET_RAI (R148) -/
  | getRai
  /-- SET_ESPI (R149) -/
  | setEspi
  /-- GET_ESPI (R150) -/
  | getEspi
  /-- SET_PCRF (R151) -/
  | setPcrf
  /-- GET_PCRF (R152) -/
  | getPcrf
  /-- SET_PCR_BASE (R170) -/
  | setPcrBase
  /-- GET_PCR_BASE (R171) -/
  | getPcrBase
  /-- SET_PCR_EXT (R172) -/
  | setPcrExt
  /-- GET_PCR_EXT (R173) -/
  | getPcrExt
  deriving DecidableEq, Repr

end Sys2Proof
end

