-- ==== Sys2Proof/WellFormed.lean ====
section
/-! DEFINITION. Which commands a legal word can stand for: a format X index names a byte of the
buffer (30_encoding.md R62, R66 (d)). -/

namespace Sys2Proof

/-- The constraint of format X, `IDX ≤ 187` (R62); format N has no field to constrain (R61). -/
def Instr.wf : Instr → Bool
  | .byteRd idx => idx.toNat ≤ 187
  | .byteWr idx => idx.toNat ≤ 187
  | .nullPkt | .blkLoad | .blkRead | .syncOk
  | .setTei | .getTei | .setPusi | .getPusi | .setTp | .getTp | .setPid | .getPid
  | .setSc | .getSc | .getAfc | .setPayload | .getPayload | .setCc | .getCc | .ccReset
  | .setAfLen | .getAfLen | .setDisc | .clrDisc | .getDisc | .setRai | .getRai
  | .setEspi | .getEspi | .setPcrf | .getPcrf
  | .setPcrBase | .getPcrBase | .setPcrExt | .getPcrExt => true

end Sys2Proof
end

