-- ==== Sys2Proof/Decode.lean ====
section
/-! DEFINITION. The command word: its fields (30_encoding.md R60), the total decoder of R67 that
rejects a word by the cause R66 names, and the encoder written from R60 and R65. -/

namespace Sys2Proof

/-- The conditions (a) to (d) of R66 that make a word illegal. The response does not show which one
holds (60_exceptions.md R213). -/
inductive IllegalCause where
  /-- (a) `OP` is unassigned. -/
  | unassignedOpcode
  /-- (b) `RSV ≠ 00`. -/
  | reservedBits
  /-- (c) `IDX ≠ 0x00` with a format N opcode. -/
  | indexOnFormatN
  /-- (d) `IDX ≥ 188` with BYTE_RD or BYTE_WR. -/
  | indexOutOfRange
  deriving DecidableEq, Repr

/-- What the decoder says of a word (R67). -/
inductive Decoded where
  | legal (i : Instr)
  | illegal (c : IllegalCause)
  deriving DecidableEq, Repr

/-- `OP = CMD[5:0]` (R60). -/
def opField (w : Word) : BitVec 6 := w.extractLsb' 0 6

/-- `RSV = CMD[7:6]` (R60). -/
def rsvField (w : Word) : BitVec 2 := w.extractLsb' 6 2

/-- `IDX = CMD[15:8]` (R60). -/
def idxField (w : Word) : BitVec 8 := w.extractLsb' 8 8

/-- The 35 format N rows of the opcode map (R61, R65). -/
def formatN (op : BitVec 6) : Option Instr :=
  match op.toNat with
  | 0x01 => some .nullPkt
  | 0x02 => some .blkLoad
  | 0x03 => some .blkRead
  | 0x06 => some .syncOk
  | 0x08 => some .setTei
  | 0x09 => some .getTei
  | 0x0A => some .setPusi
  | 0x0B => some .getPusi
  | 0x0C => some .setTp
  | 0x0D => some .getTp
  | 0x0E => some .setPid
  | 0x0F => some .getPid
  | 0x10 => some .setSc
  | 0x11 => some .getSc
  | 0x12 => some .getAfc
  | 0x13 => some .setPayload
  | 0x14 => some .getPayload
  | 0x15 => some .setCc
  | 0x16 => some .getCc
  | 0x17 => some .ccReset
  | 0x18 => some .setAfLen
  | 0x19 => some .getAfLen
  | 0x1A => some .setDisc
  | 0x1B => some .clrDisc
  | 0x1C => some .getDisc
  | 0x1D => some .setRai
  | 0x1E => some .getRai
  | 0x1F => some .setEspi
  | 0x20 => some .getEspi
  | 0x21 => some .setPcrf
  | 0x22 => some .getPcrf
  | 0x24 => some .setPcrBase
  | 0x25 => some .getPcrBase
  | 0x26 => some .setPcrExt
  | 0x27 => some .getPcrExt
  | _ => none

/-- The two format X rows of the opcode map (R62, R65). -/
def formatX (op : BitVec 6) (idx : BitVec 8) : Option Instr :=
  match op.toNat with
  | 0x04 => some (.byteRd idx)
  | 0x05 => some (.byteWr idx)
  | _ => none

/-- The decoder, in the order of R67's pseudocode. -/
def decode (w : Word) : Decoded :=
  if rsvField w ≠ 0 then .illegal .reservedBits
  else
    match formatX (opField w) (idxField w) with
    | some i => if (idxField w).toNat ≤ 187 then .legal i else .illegal .indexOutOfRange
    | none =>
      match formatN (opField w) with
      | some i => if idxField w = 0 then .legal i else .illegal .indexOnFormatN
      | none => .illegal .unassignedOpcode

/-- The instruction a decoder's answer holds. -/
def Decoded.instr? : Decoded → Option Instr
  | .legal i => some i
  | .illegal _ => none

/-- The `OP` column of the opcode map (R65). -/
def opcodeOf : Instr → BitVec 6
  | .nullPkt => 0x01
  | .blkLoad => 0x02
  | .blkRead => 0x03
  | .byteRd _ => 0x04
  | .byteWr _ => 0x05
  | .syncOk => 0x06
  | .setTei => 0x08
  | .getTei => 0x09
  | .setPusi => 0x0A
  | .getPusi => 0x0B
  | .setTp => 0x0C
  | .getTp => 0x0D
  | .setPid => 0x0E
  | .getPid => 0x0F
  | .setSc => 0x10
  | .getSc => 0x11
  | .getAfc => 0x12
  | .setPayload => 0x13
  | .getPayload => 0x14
  | .setCc => 0x15
  | .getCc => 0x16
  | .ccReset => 0x17
  | .setAfLen => 0x18
  | .getAfLen => 0x19
  | .setDisc => 0x1A
  | .clrDisc => 0x1B
  | .getDisc => 0x1C
  | .setRai => 0x1D
  | .getRai => 0x1E
  | .setEspi => 0x1F
  | .getEspi => 0x20
  | .setPcrf => 0x21
  | .getPcrf => 0x22
  | .setPcrBase => 0x24
  | .getPcrBase => 0x25
  | .setPcrExt => 0x26
  | .getPcrExt => 0x27

/-- The `IDX` of the word: format X's index (R62), `0x00` in format N (R61). -/
def indexOf : Instr → BitVec 8
  | .byteRd idx => idx
  | .byteWr idx => idx
  | .nullPkt | .blkLoad | .blkRead | .syncOk
  | .setTei | .getTei | .setPusi | .getPusi | .setTp | .getTp | .setPid | .getPid
  | .setSc | .getSc | .getAfc | .setPayload | .getPayload | .setCc | .getCc | .ccReset
  | .setAfLen | .getAfLen | .setDisc | .clrDisc | .getDisc | .setRai | .getRai
  | .setEspi | .getEspi | .setPcrf | .getPcrf
  | .setPcrBase | .getPcrBase | .setPcrExt | .getPcrExt => 0x00

/-- The encoder: `CMD = (IDX << 8) | (RSV << 6) | OP` with `RSV = 00` (R60). -/
def encode (i : Instr) : Word :=
  ((indexOf i).setWidth 16 <<< 8) ||| ((0b00#2).setWidth 16 <<< 6) ||| (opcodeOf i).setWidth 16

/-- The instruction the decoder reads from a word given as a number, bit 0 least significant; a word
is 16 bits (R68), and the bits from `nbits` up are 0. -/
def decodeTableWord (nbits w : Nat) : Option Instr :=
  (decode (BitVec.ofNat 16 (w % 2 ^ nbits))).instr?

end Sys2Proof
end

