-- ==== Sys2Proof/Machine/Flags.lean ====
section
/-! DEFINITION. The block keeps no flags (10_state.md R23); what a rule's "Flags" line gives is the
response `STATUS` (00_scope.md R14, 60_exceptions.md R212), and a flag getter's result is 1 or 0
(30_encoding.md R64). -/

namespace Sys2Proof.Machine

/-- `STATUS = 00`, OK (R212). -/
def statusOk : StatusCode := 0b00#2

/-- `STATUS = 01`, ILLEGAL (R211, R212). -/
def statusIllegal : StatusCode := 0b01#2

/-- The canonical result of a flag getter: exactly 1 or 0 (R64; 92_eei_decisions.md D7). -/
def flagResult (b : Bool) : Operand := if b then 1 else 0

/-- Whether any bit of the mask is set: "a bitwise AND against the mask and reports non-zero as true"
(41_header.md R100). -/
def bitsSet (v mask : Byte) : Bool := v &&& mask != 0

end Sys2Proof.Machine
end

