-- ==== Sys2Proof/Config.lean ====
section
/-! DEFINITION. The configuration parameters of 00_scope.md R8 and the free values that stand where
the spec gives no value (10_state.md R24, R25, R31). -/

namespace Sys2Proof

/-- `AF_ZERO_LEN`: what SET_AF_LEN with `L = 0` does (R8, R142). -/
inductive AfZeroLen where
  | noop
  | writeLen
  | setAndWrite
  deriving DecidableEq, Repr

/-- `AF_FILL`: how far the SET_AF_LEN stuffing fill reaches (R8, R141). -/
inductive AfFill where
  | toEnd
  | bounded
  deriving DecidableEq, Repr

/-- `RESET_MODE`: what the buffer holds after reset (R8, R240). -/
inductive ResetMode where
  | nullPacket
  | unspecified
  deriving DecidableEq, Repr

/-- The five parameters that are fixed when the block is instantiated (R8, R26). -/
structure Config where
  /-- `AF_ZERO_LEN` -/
  afZeroLen : AfZeroLen
  /-- `AF_FILL` -/
  afFill : AfFill
  /-- `NULL_B1` -/
  nullB1 : Byte
  /-- `NULL_B3` -/
  nullB3 : Byte
  /-- `RESET_MODE` -/
  resetMode : ResetMode
  deriving DecidableEq, Repr

/-- The values R8 admits: `NULL_B1 & 0x1F = 0x1F` and `NULL_B3 & 0x2F = 0x00`. -/
abbrev Config.wf (c : Config) : Prop :=
  c.nullB1 &&& 0x1F#8 = 0x1F#8 ∧ c.nullB3 &&& 0x2F#8 = 0x00#8

/-- The reference configuration: the default column of R8. -/
def Config.reference : Config where
  afZeroLen := .noop
  afFill := .toEnd
  nullB1 := 0x1F#8
  nullB3 := 0x00#8
  resetMode := .nullPacket

/-- FREE VALUE (log 8). Byte `i` of the buffer as reset number `draw` finds it under
`RESET_MODE = UNSPECIFIED` (R31, R240). -/
opaque Config.freeByte (draw : Nat) (i : Nat) : Byte

/-- FREE VALUE (log 3). `STATUS` between a reset and the first response (R25, R31). -/
opaque Config.freeStatus (draw : Nat) : StatusCode

/-- FREE VALUE (log 3). `DOUT` between a reset and the first response (R25, R31). -/
opaque Config.freeDout (draw : Nat) : Operand

/-- FREE VALUE (logs 3 and 4). `BLK_OUT` after a reset, and in a response to any command but BLK_READ
(R24, R25, R31; 93_implementation_defined.md I10). -/
opaque Config.freeBlkOut (draw : Nat) : Block

end Sys2Proof
end

