-- ==== Sys2Proof/Machine/Memory.lean ====
section
/-! DEFINITION. The packet buffer `B` (10_state.md R20, 20_memory.md R40) as a list of cells in one
canonical form, its byte accesses (00_scope.md R11), its whole-buffer images and the block port lanes
(20_memory.md R44). -/

namespace Sys2Proof.Machine

/-- The buffer: (index, byte) cells, indices rising, none of them equal to what an unlisted index
reads as. -/
abbrev Memory := List Host.Cell

/-- What an unlisted index reads as: the reset contents of the reference configuration (R31), the
null packet `47 1F FF 00 FF ...`. -/
def unlistedByte (a : Nat) : Byte :=
  match a with
  | 0 => 0x47
  | 1 => 0x1F
  | 3 => 0x00
  | _ => 0xFF

/-- The canonical form of a buffer. -/
abbrev Memory.wf (m : Memory) : Prop :=
  m.Pairwise (fun c d => c.1 < d.1) ∧ ∀ c ∈ m, c.1 < 188 ∧ c.2 ≠ unlistedByte c.1

/-- The byte a list of cells gives for an address. -/
def Memory.lookupByte (m : Memory) (a : Nat) : Byte :=
  match m with
  | [] => unlistedByte a
  | c :: rest => if c.1 = a then c.2 else Memory.lookupByte rest a

/-- The cells without those of address `a`. -/
def Memory.eraseByte (m : Memory) (a : Nat) : Memory := m.filter fun c => c.1 ≠ a

/-- The cells with `(a, v)` placed in rising order. -/
def Memory.placeByte (m : Memory) (a : Nat) (v : Byte) : Memory :=
  match m with
  | [] => [(a, v)]
  | c :: rest => if a < c.1 then (a, v) :: c :: rest else c :: Memory.placeByte rest a v

/-- The cells with address `a` set to `v`; the value an unlisted address reads as is not listed. -/
def Memory.insertByte (m : Memory) (a : Nat) (v : Byte) : Memory :=
  if v = unlistedByte a then m.eraseByte a else (m.eraseByte a).placeByte a v

/-- `B[i]` (R11). -/
def Memory.read (m : Memory) (i : Index) : Byte := m.lookupByte i.val

/-- `B[i] <- v` (R11). -/
def Memory.write (m : Memory) (i : Index) (v : Byte) : Memory := m.insertByte i.val v

/-- The buffer whose byte `i` is `f i`, for all 188 bytes at once (R47: one atomic step). -/
def Memory.ofBytes (f : Index → Byte) : Memory :=
  (List.finRange 188).filterMap fun i =>
    if f i = unlistedByte i.val then none else some (i.val, f i)

/-- `for i in lo..hi: B[i] <- v`. -/
def Memory.fill (m : Memory) (lo hi : Nat) (v : Byte) : Memory :=
  Memory.ofBytes fun i => if lo ≤ i.val ∧ i.val ≤ hi then v else m.read i

/-- `MemRead(i, n)`: `{B[i], B[i+1], ..., B[i+n-1]}`, first byte most significant (R11, R42). -/
def Memory.readBytes (m : Memory) (i n : Nat) (h : i + n ≤ 188) : BitVec (8 * n) :=
  match n with
  | 0 => 0#0
  | k + 1 =>
    (m.readBytes i k (by omega) ++ m.read ⟨i + k, by omega⟩ : BitVec (8 * k + 8)).cast (by omega)

/-- `MemWrite(i, n, v)`: most significant byte at the lowest index (R11, R42). -/
def Memory.writeBytes (m : Memory) (i n : Nat) (h : i + n ≤ 188) (v : BitVec (8 * n)) : Memory :=
  match n with
  | 0 => m
  | k + 1 =>
    (m.writeBytes i k (by omega) (v.extractLsb' 8 (8 * k))).write ⟨i + k, by omega⟩
      (v.extractLsb' 0 8)

/-- Byte `i` of the null packet (44_packet_view.md R190). -/
def nullByte (cfg : Config) (i : Index) : Byte :=
  match i.val with
  | 0 => 0x47
  | 1 => cfg.nullB1
  | 2 => 0xFF
  | 3 => cfg.nullB3
  | _ => 0xFF

/-- The null packet, all 188 bytes (R190). -/
def nullPacket (cfg : Config) : Memory := Memory.ofBytes (nullByte cfg)

/-- The buffer after reset number `draw` (70_reset_and_hazards.md R240). -/
def resetBuffer (cfg : Config) (draw : Nat) : Memory :=
  match cfg.resetMode with
  | .nullPacket => nullPacket cfg
  | .unspecified => Memory.ofBytes fun i => Config.freeByte draw i.val

/-- Lane `[8i+7:8i]` of a block port (R44). -/
def laneOf (b : Block) (i : Index) : Byte := b.extractLsb' (8 * i.val) 8

/-- The block port value whose lane `i` is `f i` (R44): byte 0 in the lowest lane. -/
def packLanes (f : Index → Byte) : Block :=
  (List.finRange 188).foldr (fun i acc => (acc <<< 8) ||| (f i).setWidth 1504) 0

end Sys2Proof.Machine
end

