-- ==== Sys2Proof/Machine/Fields.lean ====
section
/-! DEFINITION. The field map of the buffer (10_state.md R29): where each field stands and what it
decodes to. Positions are fixed, whatever the presence bits and the length hold (R29, 42_adaptation.md
R153). -/

namespace Sys2Proof.Machine

/-- The PID: `((B[1] & 0x1F) << 8) | B[2]` (41_header.md R110). -/
def Memory.pid (m : Memory) : BitVec 13 :=
  ((m.read 1 &&& 0x1F#8).setWidth 13 <<< 8) ||| (m.read 2).setWidth 13

/-- The scrambling control: `(B[3] & 0xC0) >> 6` (R112). -/
def Memory.scrambling (m : Memory) : BitVec 2 := ((m.read 3 &&& 0xC0#8) >>> 6).setWidth 2

/-- The continuity counter: `B[3] & 0x0F` (R117). -/
def Memory.continuity (m : Memory) : BitVec 4 := (m.read 3 &&& 0x0F#8).setWidth 4

/-- The PCR base: `(B[6] << 25) | (B[7] << 17) | (B[8] << 9) | (B[9] << 1) | (B[10] >> 7)`
(43_pcr.md R171). -/
def Memory.pcrBase (m : Memory) : BitVec 33 :=
  ((m.read 6).setWidth 33 <<< 25) ||| ((m.read 7).setWidth 33 <<< 17) |||
    ((m.read 8).setWidth 33 <<< 9) ||| ((m.read 9).setWidth 33 <<< 1) |||
    ((m.read 10) >>> 7).setWidth 33

/-- The PCR extension: `((B[10] & 0x01) << 8) | B[11]` (R173; 90_conflicts.md C4). -/
def Memory.pcrExt (m : Memory) : BitVec 9 :=
  ((m.read 10 &&& 0x01#8).setWidth 9 <<< 8) ||| (m.read 11).setWidth 9

/-- The fields of R29. `rest i` is one byte of "rest of AF (stuffing) and payload". -/
inductive Field where
  | sync
  | tei
  | pusi
  | tp
  | pid
  | sc
  | afPresent
  | payloadPresent
  | cc
  | afLen
  | disc
  | rai
  | espi
  | pcrPresent
  | byte5Low
  | pcrBase
  | pcrReserved
  | pcrExt
  | rest (i : Index)
  deriving DecidableEq, Repr

/-- The mask `m` at byte `k`, nothing elsewhere. -/
def maskAt (k : Index) (m : Byte) (j : Index) : Byte := if j = k then m else 0

/-- The bits of each byte that a field occupies: the byte and mask columns of R29. -/
def Field.mask : Field → Index → Byte
  | .sync, j => maskAt 0 0xFF j
  | .tei, j => maskAt 1 0x80 j
  | .pusi, j => maskAt 1 0x40 j
  | .tp, j => maskAt 1 0x20 j
  | .pid, j => maskAt 1 0x1F j ||| maskAt 2 0xFF j
  | .sc, j => maskAt 3 0xC0 j
  | .afPresent, j => maskAt 3 0x20 j
  | .payloadPresent, j => maskAt 3 0x10 j
  | .cc, j => maskAt 3 0x0F j
  | .afLen, j => maskAt 4 0xFF j
  | .disc, j => maskAt 5 0x80 j
  | .rai, j => maskAt 5 0x40 j
  | .espi, j => maskAt 5 0x20 j
  | .pcrPresent, j => maskAt 5 0x10 j
  | .byte5Low, j => maskAt 5 0x0F j
  | .pcrBase, j =>
    maskAt 6 0xFF j ||| maskAt 7 0xFF j ||| maskAt 8 0xFF j ||| maskAt 9 0xFF j ||| maskAt 10 0x80 j
  | .pcrReserved, j => maskAt 10 0x7E j
  | .pcrExt, j => maskAt 10 0x01 j ||| maskAt 11 0xFF j
  | .rest i, j => maskAt i 0xFF j

/-- The value a field decodes to, zero-extended: what its getter returns where R29 gives it one. -/
def Field.value (f : Field) (m : Memory) : Operand :=
  match f with
  | .sync => (m.read 0).setWidth 64
  | .tei => flagResult (bitsSet (m.read 1) 0x80)
  | .pusi => flagResult (bitsSet (m.read 1) 0x40)
  | .tp => flagResult (bitsSet (m.read 1) 0x20)
  | .pid => m.pid.setWidth 64
  | .sc => m.scrambling.setWidth 64
  | .afPresent => flagResult (bitsSet (m.read 3) 0x20)
  | .payloadPresent => flagResult (bitsSet (m.read 3) 0x10)
  | .cc => m.continuity.setWidth 64
  | .afLen => (m.read 4).setWidth 64
  | .disc => flagResult (bitsSet (m.read 5) 0x80)
  | .rai => flagResult (bitsSet (m.read 5) 0x40)
  | .espi => flagResult (bitsSet (m.read 5) 0x20)
  | .pcrPresent => flagResult (bitsSet (m.read 5) 0x10)
  | .byte5Low => (m.read 5 &&& 0x0F#8).setWidth 64
  | .pcrBase => m.pcrBase.setWidth 64
  | .pcrReserved => ((m.read 10 &&& 0x7E#8) >>> 1).setWidth 64
  | .pcrExt => m.pcrExt.setWidth 64
  | .rest i => (m.read i).setWidth 64

end Sys2Proof.Machine
end

