-- ==== Sys2Proof/Machine/State.lean ====
section
/-! DEFINITION. The state of the block, its host's pending inputs, why a step can stop, and the state
right after reset (10_state.md R20 to R31, 70_reset_and_hazards.md R240). -/

namespace Sys2Proof.Machine

/-- What the host presents with one command (R24). -/
structure Transaction where
  /-- `CMD` -/
  cmd : Word
  /-- `DIN` -/
  din : Operand
  /-- `BLK_IN` -/
  blkIn : Block
  deriving DecidableEq, Repr

/-- What the outside does next at the block's port (log 2). -/
inductive HostEvent where
  /-- The host presents one command (R24). -/
  | command (t : Transaction)
  /-- The host resets the block, perhaps cutting off a command (R240). -/
  | reset (cutOff : Option Transaction)
  /-- Two hosts present commands that no lock serialises (20_memory.md R56). -/
  | collide (a b : Transaction)
  deriving DecidableEq, Repr

/-- The block and its port. The spec's only state is `buf` (R20). -/
structure State where
  /-- The configuration parameters, fixed for the run (00_scope.md R8, 10_state.md R26). -/
  cfg : Config
  /-- The packet buffer `B` (R20). -/
  buf : Memory
  /-- What the host does next, oldest first (MODEL's field, log 2). -/
  pending : List HostEvent
  /-- `DIN` of the command being served (R24). -/
  din : Operand
  /-- `BLK_IN` of the command being served (R24). -/
  blkIn : Block
  /-- `STATUS` of the last response (R24). -/
  status : StatusCode
  /-- `DOUT` of the last response (R24). -/
  dout : Operand
  /-- `BLK_OUT` of the last response (R24). -/
  blkOut : Block
  /-- The number of the next free value (MODEL's field, log 5). -/
  draws : Nat
  deriving DecidableEq, Repr

/-- Why the machine stops with a fault: never. "There is no error taxonomy at the codec level"
(60_exceptions.md R210), and IllegalCommand is a response after which the block goes on (R211, R216). -/
inductive Fault where
  deriving DecidableEq, Repr

/-- Why the model gives a step no meaning. -/
inductive Refusal where
  /-- Raised by an arm of `exec` whose instruction has no meaning yet. Safe: nothing is claimed of it. -/
  | notModelled (mnemonic : String)
  /-- Raised by `step` when two hosts' commands are not serialised by a lock (R56, 93 I3: "refuse").
  Safe: the model claims nothing of such a run. -/
  | concurrentHosts
  deriving DecidableEq, Repr

/-- The state after reset number 0 of a block instantiated with `cfg` (R31, R240). STATUS, DOUT and
BLK_OUT are unspecified there, so free values (R25, log 3); nothing is presented at the port yet. -/
def State.resetWith (cfg : Config) : State where
  cfg := cfg
  buf := resetBuffer cfg 0
  pending := []
  din := 0
  blkIn := 0
  status := Config.freeStatus 0
  dout := Config.freeDout 0
  blkOut := Config.freeBlkOut 0
  draws := 1

/-- The reference block right after reset (R8's defaults, R31). -/
def State.reset : State := State.resetWith Config.reference

end Sys2Proof.Machine
end

