-- ==== Sys2Proof/Machine/Operands.lean ====
section
/-! DEFINITION. Operand assembly (30_encoding.md R63): a setter takes the low bits of `DIN` and ignores
the rest. -/

namespace Sys2Proof.Machine

/-- SET_PID: `pid = DIN[12:0]`. -/
def pidOperand (din : Operand) : BitVec 13 := din.extractLsb' 0 13

/-- SET_SC: `sc = DIN[1:0]`. -/
def scOperand (din : Operand) : BitVec 2 := din.extractLsb' 0 2

/-- SET_CC: `cc = DIN[3:0]`. -/
def ccOperand (din : Operand) : BitVec 4 := din.extractLsb' 0 4

/-- SET_AF_LEN: `L = DIN[7:0]`. -/
def afLenOperand (din : Operand) : Byte := din.extractLsb' 0 8

/-- SET_PCR_BASE: `base = DIN[32:0]`. -/
def pcrBaseOperand (din : Operand) : BitVec 33 := din.extractLsb' 0 33

/-- SET_PCR_EXT: `ext = DIN[8:0]`. -/
def pcrExtOperand (din : Operand) : BitVec 9 := din.extractLsb' 0 9

/-- BYTE_WR: `v = DIN[7:0]`. -/
def byteOperand (din : Operand) : Byte := din.extractLsb' 0 8

/-- BYTE_RD and BYTE_WR: `IDX` as an index of the buffer, if it is one (R62, 20_memory.md R41). -/
def indexOperand (idx : BitVec 8) : Option Index :=
  if h : idx.toNat < 188 then some ⟨idx.toNat, h⟩ else none

end Sys2Proof.Machine
end

