-- ==== Sys2Proof/Machine/Ops.lean ====
section
/-! DEFINITION. The named operations every meaning is written over: byte access and the masked update
(00_scope.md R11, R13), the response (10_state.md R24, 30_encoding.md R64), raising IllegalCommand
(60_exceptions.md R211), serving a transaction and taking a reset (70_reset_and_hazards.md R240).
There is no return from an exception: R216 says the block has none. -/

namespace Sys2Proof.Machine

/-- `B[i]` (R11). -/
def State.readB (s : State) (i : Index) : Byte := s.buf.read i

/-- The state with another buffer. -/
def State.withBuf (s : State) (m : Memory) : State := { s with buf := m }

/-- `B[i] <- v` (R11). -/
def State.writeB (s : State) (i : Index) (v : Byte) : State := s.withBuf (s.buf.write i v)

/-- `RMW(i, m, v)`: `B[i] <- (B[i] & ~m) | (v & m)` (R13). -/
def State.rmw (s : State) (i : Index) (m v : Byte) : State :=
  s.writeB i ((s.readB i &&& ~~~m) ||| (v &&& m))

/-- `B[i] <- B[i] | m`: the flag setter (R13, 41_header.md R100). -/
def State.orB (s : State) (i : Index) (m : Byte) : State := s.writeB i (s.readB i ||| m)

/-- `B[i] <- B[i] & m`: CC_RESET and CLR_DISC (R118, R145). -/
def State.andB (s : State) (i : Index) (m : Byte) : State := s.writeB i (s.readB i &&& m)

/-- The response of every command but BLK_READ: `DOUT <- d; STATUS <- OK`. `BLK_OUT` is not driven, so
it takes a free value (R24, log 4). -/
def State.respond (s : State) (d : Operand) : State :=
  { s with status := statusOk, dout := d, blkOut := Config.freeBlkOut s.draws,
           draws := s.draws + 1 }

/-- The response of BLK_READ: `BLK_OUT <- b; DOUT <- 0; STATUS <- OK` (44_packet_view.md R193). -/
def State.respondBlock (s : State) (b : Block) : State :=
  { s with status := statusOk, dout := 0, blkOut := b }

/-- `raise IllegalCommand(CMD)`, the block's only exception: the response is `STATUS = ILLEGAL` and
`DOUT = 0`, nothing is saved, no byte of `B` changes and the block goes on (R211, R215, R216). -/
def State.raiseIllegal (s : State) : State :=
  { s with status := statusIllegal, dout := 0, blkOut := Config.freeBlkOut s.draws,
           draws := s.draws + 1 }

/-- The block takes transaction `t` from its port: its operands are what the command reads (R24). -/
def State.accept (s : State) (t : Transaction) (rest : List HostEvent) : State :=
  { s with pending := rest, din := t.din, blkIn := t.blkIn }

/-- The host's reset (R240). `B` is as the configuration says, whatever was in progress; the response
ports hold unspecified values until the next response (R31). -/
def State.takeReset (s : State) (rest : List HostEvent) : State :=
  { s with pending := rest, buf := resetBuffer s.cfg s.draws, status := Config.freeStatus s.draws,
           dout := Config.freeDout s.draws, blkOut := Config.freeBlkOut s.draws,
           draws := s.draws + 1 }

end Sys2Proof.Machine
end

