-- ==== Sys2Proof/Machine/Adaptation.lean ====
section
/-! DEFINITION. The adaptation-field family (42_adaptation.md R140 to R153): the length byte and the
flags of byte 5, read and written whatever the presence bit says (R153). -/

namespace Sys2Proof.Machine

/-- `E(L)`, the last byte the stuffing fill writes (R141). -/
def fillEnd (cfg : Config) (len : Byte) : Nat :=
  match cfg.afFill with
  | .toEnd => 187
  | .bounded => min 187 (4 + len.toNat)

/-- What SET_AF_LEN does to the buffer for `L = 0` (R142). -/
def State.afLenZero (s : State) : State :=
  match s.cfg.afZeroLen with
  | .noop => s
  | .writeLen => s.writeB 4 0x00
  | .setAndWrite => (s.orB 3 0x20).writeB 4 0x00

/-- What SET_AF_LEN does to the buffer for `L ≠ 0` (R140): the presence bit, the length, the cleared
flags byte and, for `L ≥ 2`, the stuffing. -/
def State.afLenDeclare (s : State) (len : Byte) : State :=
  let s' := ((s.orB 3 0x20).writeB 4 len).writeB 5 0x00
  if 2 ≤ len.toNat then s'.withBuf (s'.buf.fill 6 (fillEnd s.cfg len) 0xFF) else s'

/-- SET_AF_LEN (R140, R141, R142). -/
def execSetAfLen (s : State) : Host.Outcome State Fault Refusal :=
  let len := afLenOperand s.din
  .next ((if len = 0 then s.afLenZero else s.afLenDeclare len).respond 0)

/-- GET_AF_LEN (R143): `DOUT <- B[4]`. -/
def execGetAfLen (s : State) : Host.Outcome State Fault Refusal :=
  .next (s.respond ((s.readB 4).setWidth 64))

/-- SET_DISC (R144): `B[5] <- B[5] | 0x80; DOUT <- 0`. -/
def execSetDisc (s : State) : Host.Outcome State Fault Refusal :=
  .next ((s.orB 5 0x80).respond 0)

/-- CLR_DISC (R145): `B[5] <- B[5] & 0x7F; DOUT <- 0`. -/
def execClrDisc (s : State) : Host.Outcome State Fault Refusal :=
  .next ((s.andB 5 0x7F).respond 0)

/-- GET_DISC (R146): `DOUT <- ((B[5] & 0x80) != 0) ? 1 : 0`. -/
def execGetDisc (s : State) : Host.Outcome State Fault Refusal :=
  .next (s.respond (flagResult (bitsSet (s.readB 5) 0x80)))

/-- SET_RAI (R147): `B[5] <- B[5] | 0x40; DOUT <- 0`. -/
def execSetRai (s : State) : Host.Outcome State Fault Refusal :=
  .next ((s.orB 5 0x40).respond 0)

/-- GET_RAI (R148): `DOUT <- ((B[5] & 0x40) != 0) ? 1 : 0`. -/
def execGetRai (s : State) : Host.Outcome State Fault Refusal :=
  .next (s.respond (flagResult (bitsSet (s.readB 5) 0x40)))

/-- SET_ESPI (R149): `B[5] <- B[5] | 0x20; DOUT <- 0`. -/
def execSetEspi (s : State) : Host.Outcome State Fault Refusal :=
  .next ((s.orB 5 0x20).respond 0)

/-- GET_ESPI (R150): `DOUT <- ((B[5] & 0x20) != 0) ? 1 : 0`. -/
def execGetEspi (s : State) : Host.Outcome State Fault Refusal :=
  .next (s.respond (flagResult (bitsSet (s.readB 5) 0x20)))

/-- SET_PCRF (R151): `B[5] <- B[5] | 0x10; DOUT <- 0`. -/
def execSetPcrf (s : State) : Host.Outcome State Fault Refusal :=
  .next ((s.orB 5 0x10).respond 0)

/-- GET_PCRF (R152): `DOUT <- ((B[5] & 0x10) != 0) ? 1 : 0`. -/
def execGetPcrf (s : State) : Host.Outcome State Fault Refusal :=
  .next (s.respond (flagResult (bitsSet (s.readB 5) 0x10)))

end Sys2Proof.Machine
end

