-- ==== Sys2Proof/Machine/Header.lean ====
section
/-! DEFINITION. The header family (41_header.md R100 to R118): the sync check and the fields of bytes 1
to 3. -/

namespace Sys2Proof.Machine

/-- SYNC_OK (R102): `DOUT <- (B[0] == 0x47) ? 1 : 0`. -/
def execSyncOk (s : State) : Host.Outcome State Fault Refusal :=
  .next (s.respond (flagResult (s.readB 0 == 0x47)))

/-- SET_TEI (R103): `B[1] <- B[1] | 0x80; DOUT <- 0`. -/
def execSetTei (s : State) : Host.Outcome State Fault Refusal :=
  .next ((s.orB 1 0x80).respond 0)

/-- GET_TEI (R104): `DOUT <- ((B[1] & 0x80) != 0) ? 1 : 0`. -/
def execGetTei (s : State) : Host.Outcome State Fault Refusal :=
  .next (s.respond (flagResult (bitsSet (s.readB 1) 0x80)))

/-- SET_PUSI (R105): `B[1] <- B[1] | 0x40; DOUT <- 0`. -/
def execSetPusi (s : State) : Host.Outcome State Fault Refusal :=
  .next ((s.orB 1 0x40).respond 0)

/-- GET_PUSI (R106): `DOUT <- ((B[1] & 0x40) != 0) ? 1 : 0`. -/
def execGetPusi (s : State) : Host.Outcome State Fault Refusal :=
  .next (s.respond (flagResult (bitsSet (s.readB 1) 0x40)))

/-- SET_TP (R107): `B[1] <- B[1] | 0x20; DOUT <- 0`. -/
def execSetTp (s : State) : Host.Outcome State Fault Refusal :=
  .next ((s.orB 1 0x20).respond 0)

/-- GET_TP (R108): `DOUT <- ((B[1] & 0x20) != 0) ? 1 : 0`. -/
def execGetTp (s : State) : Host.Outcome State Fault Refusal :=
  .next (s.respond (flagResult (bitsSet (s.readB 1) 0x20)))

/-- SET_PID (R109): `RMW(1, 0x1F, pid >> 8); B[2] <- pid & 0xFF; DOUT <- 0`. -/
def execSetPid (s : State) : Host.Outcome State Fault Refusal :=
  let pid := pidOperand s.din
  .next (((s.rmw 1 0x1F ((pid >>> 8).setWidth 8)).writeB 2 (pid.setWidth 8)).respond 0)

/-- GET_PID (R110): `DOUT <- ((B[1] & 0x1F) << 8) | B[2]`. -/
def execGetPid (s : State) : Host.Outcome State Fault Refusal :=
  .next (s.respond (s.buf.pid.setWidth 64))

/-- SET_SC (R111): `RMW(3, 0xC0, sc << 6); DOUT <- 0`. -/
def execSetSc (s : State) : Host.Outcome State Fault Refusal :=
  let sc := scOperand s.din
  .next ((s.rmw 3 0xC0 (sc.setWidth 8 <<< 6)).respond 0)

/-- GET_SC (R112): `DOUT <- (B[3] & 0xC0) >> 6`. -/
def execGetSc (s : State) : Host.Outcome State Fault Refusal :=
  .next (s.respond (s.buf.scrambling.setWidth 64))

/-- GET_AFC (R113): `DOUT <- ((B[3] & 0x20) != 0) ? 1 : 0`. -/
def execGetAfc (s : State) : Host.Outcome State Fault Refusal :=
  .next (s.respond (flagResult (bitsSet (s.readB 3) 0x20)))

/-- SET_PAYLOAD (R114): `B[3] <- B[3] | 0x10; DOUT <- 0`. -/
def execSetPayload (s : State) : Host.Outcome State Fault Refusal :=
  .next ((s.orB 3 0x10).respond 0)

/-- GET_PAYLOAD (R115): `DOUT <- ((B[3] & 0x10) != 0) ? 1 : 0`. -/
def execGetPayload (s : State) : Host.Outcome State Fault Refusal :=
  .next (s.respond (flagResult (bitsSet (s.readB 3) 0x10)))

/-- SET_CC (R116): `RMW(3, 0x0F, cc); DOUT <- 0`. -/
def execSetCc (s : State) : Host.Outcome State Fault Refusal :=
  let cc := ccOperand s.din
  .next ((s.rmw 3 0x0F (cc.setWidth 8)).respond 0)

/-- GET_CC (R117): `DOUT <- B[3] & 0x0F`. -/
def execGetCc (s : State) : Host.Outcome State Fault Refusal :=
  .next (s.respond (s.buf.continuity.setWidth 64))

/-- CC_RESET (R118): `B[3] <- B[3] & 0xF0; DOUT <- 0`. -/
def execCcReset (s : State) : Host.Outcome State Fault Refusal :=
  .next ((s.andB 3 0xF0).respond 0)

end Sys2Proof.Machine
end

