-- ==== Sys2Proof/Machine/PacketView.lean ====
section
/-! DEFINITION. The packet view family (44_packet_view.md R190 to R197): the null packet, the whole
buffer over the block ports, and single bytes. -/

namespace Sys2Proof.Machine

/-- NULL_PKT (R190): all 188 bytes, `DOUT <- 0`. -/
def execNullPkt (s : State) : Host.Outcome State Fault Refusal :=
  .next ((s.withBuf (nullPacket s.cfg)).respond 0)

/-- BLK_LOAD (R192): `for i in 0..187: B[i] <- BLK_IN[8i+7:8i]; DOUT <- 0`. -/
def execBlkLoad (s : State) : Host.Outcome State Fault Refusal :=
  .next ((s.withBuf (Memory.ofBytes (laneOf s.blkIn))).respond 0)

/-- BLK_READ (R193): `for i in 0..187: BLK_OUT[8i+7:8i] <- B[i]; DOUT <- 0`. -/
def execBlkRead (s : State) : Host.Outcome State Fault Refusal :=
  .next (s.respondBlock (packLanes s.readB))

/-- BYTE_RD (R195): `if IDX > 187 then raise IllegalCommand(CMD) else DOUT <- zext_64(B[IDX])`. -/
def execByteRd (idx : BitVec 8) (s : State) : Host.Outcome State Fault Refusal :=
  match indexOperand idx with
  | some i => .next (s.respond ((s.readB i).setWidth 64))
  | none => .next s.raiseIllegal

/-- BYTE_WR (R196): `if IDX > 187 then raise IllegalCommand(CMD) else B[IDX] <- DIN[7:0]`. -/
def execByteWr (idx : BitVec 8) (s : State) : Host.Outcome State Fault Refusal :=
  match indexOperand idx with
  | some i => .next ((s.writeB i (byteOperand s.din)).respond 0)
  | none => .next s.raiseIllegal

end Sys2Proof.Machine
end

