-- ==== Sys2Proof/Machine/Pcr.lean ====
section
/-! DEFINITION. The programme clock reference family (43_pcr.md R170 to R175): bytes 6 to 11. -/

namespace Sys2Proof.Machine

/-- SET_PCR_BASE (R170): the PCR-present flag, then the 33 bits over bytes 6 to 10; the reserved bits of
byte 10 become `111111` and its bit 0, the extension's, is kept. -/
def execSetPcrBase (s : State) : Host.Outcome State Fault Refusal :=
  let base := pcrBaseOperand s.din
  let s1 := (s.orB 5 0x10).writeB 6 (base.extractLsb' 25 8)
  let s2 := (s1.writeB 7 (base.extractLsb' 17 8)).writeB 8 (base.extractLsb' 9 8)
  let s3 := s2.writeB 9 (base.extractLsb' 1 8)
  let b10 := (s3.readB 10 &&& 0x01#8) ||| ((base.extractLsb' 0 1).setWidth 8 <<< 7) ||| 0x7E#8
  .next ((s3.writeB 10 b10).respond 0)

/-- GET_PCR_BASE (R171), whatever the presence bits hold (R174). -/
def execGetPcrBase (s : State) : Host.Outcome State Fault Refusal :=
  .next (s.respond (s.buf.pcrBase.setWidth 64))

/-- SET_PCR_EXT (R172): `RMW(10, 0x01, ext >> 8); B[11] <- ext & 0xFF; DOUT <- 0`. -/
def execSetPcrExt (s : State) : Host.Outcome State Fault Refusal :=
  let ext := pcrExtOperand s.din
  .next (((s.rmw 10 0x01 ((ext >>> 8).setWidth 8)).writeB 11 (ext.setWidth 8)).respond 0)

/-- GET_PCR_EXT (R173), whatever the presence bits hold (R174). -/
def execGetPcrExt (s : State) : Host.Outcome State Fault Refusal :=
  .next (s.respond (s.buf.pcrExt.setWidth 64))

end Sys2Proof.Machine
end

