-- ==== Sys2Proof/Machine/Dispatch.lean ====
section
/-! DEFINITION. What each command does: one arm per row of the opcode map (30_encoding.md R65). -/

namespace Sys2Proof.Machine

def exec (i : Instr) (s : State) : Host.Outcome State Fault Refusal :=
  match i with
  | .nullPkt => Sys2Proof.Machine.execNullPkt s
  | .blkLoad => Sys2Proof.Machine.execBlkLoad s
  | .blkRead => Sys2Proof.Machine.execBlkRead s
  | .byteRd idx => Sys2Proof.Machine.execByteRd idx s
  | .byteWr idx => Sys2Proof.Machine.execByteWr idx s
  | .syncOk => Sys2Proof.Machine.execSyncOk s
  | .setTei => Sys2Proof.Machine.execSetTei s
  | .getTei => Sys2Proof.Machine.execGetTei s
  | .setPusi => Sys2Proof.Machine.execSetPusi s
  | .getPusi => Sys2Proof.Machine.execGetPusi s
  | .setTp => Sys2Proof.Machine.execSetTp s
  | .getTp => Sys2Proof.Machine.execGetTp s
  | .setPid => Sys2Proof.Machine.execSetPid s
  | .getPid => Sys2Proof.Machine.execGetPid s
  | .setSc => Sys2Proof.Machine.execSetSc s
  | .getSc => Sys2Proof.Machine.execGetSc s
  | .getAfc => Sys2Proof.Machine.execGetAfc s
  | .setPayload => Sys2Proof.Machine.execSetPayload s
  | .getPayload => Sys2Proof.Machine.execGetPayload s
  | .setCc => Sys2Proof.Machine.execSetCc s
  | .getCc => Sys2Proof.Machine.execGetCc s
  | .ccReset => Sys2Proof.Machine.execCcReset s
  | .setAfLen => Sys2Proof.Machine.execSetAfLen s
  | .getAfLen => Sys2Proof.Machine.execGetAfLen s
  | .setDisc => Sys2Proof.Machine.execSetDisc s
  | .clrDisc => Sys2Proof.Machine.execClrDisc s
  | .getDisc => Sys2Proof.Machine.execGetDisc s
  | .setRai => Sys2Proof.Machine.execSetRai s
  | .getRai => Sys2Proof.Machine.execGetRai s
  | .setEspi => Sys2Proof.Machine.execSetEspi s
  | .getEspi => Sys2Proof.Machine.execGetEspi s
  | .setPcrf => Sys2Proof.Machine.execSetPcrf s
  | .getPcrf => Sys2Proof.Machine.execGetPcrf s
  | .setPcrBase => Sys2Proof.Machine.execSetPcrBase s
  | .getPcrBase => Sys2Proof.Machine.execGetPcrBase s
  | .setPcrExt => Sys2Proof.Machine.execSetPcrExt s
  | .getPcrExt => Sys2Proof.Machine.execGetPcrExt s

end Sys2Proof.Machine
end

