-- ==== Sys2Proof/Machine/Step.lean ====
section
/-! DEFINITION. One step: the block serves what its host does next (10_state.md R24; 20_memory.md R47,
R50). -/

namespace Sys2Proof.Machine

/-- One transaction, one reset, or waiting: the block never initiates anything (60_exceptions.md R214)
and waits for the host's command (70_reset_and_hazards.md R241). A legal word is performed, any other
raises IllegalCommand (30_encoding.md R66, R67). -/
def step (s : State) : Host.Outcome State Fault Refusal :=
  match s.pending with
  | [] => .next s
  | .collide _ _ :: _ => .refused .concurrentHosts
  | .reset _ :: rest => .next (s.takeReset rest)
  | .command t :: rest =>
    match decode t.cmd with
    | .legal i => exec i (s.accept t rest)
    | .illegal _ => .next (s.accept t rest).raiseIllegal

/-- `s` with the host presenting the word next, beside the operands the port holds (log 12). -/
def State.withFetchWord (s : State) (nbits w : Nat) : State :=
  { s with pending :=
      .command { cmd := BitVec.ofNat 16 (w % 2 ^ nbits), din := s.din, blkIn := s.blkIn } :: s.pending }

end Sys2Proof.Machine
end

