-- ==== Sys2Proof/Machine/Assembler.lean ====
section
/-! DEFINITION. The host's side: what one assembler line puts on the port (30_encoding.md R69) and what
each pseudo-instruction expands to (R70). The text of a line (spelling, comments, number bases) is not
modelled; a line is its meaning's parts. -/

namespace Sys2Proof.Machine

/-- A line of R69. -/
inductive AsmLine where
  /-- `MNEMONIC`, `MNEMONIC imm`, `BYTE_RD idx` or `BYTE_WR idx, imm`. -/
  | command (i : Instr) (imm : Option Operand)
  /-- `BLK_LOAD {b0, ..., bk, fill v}`. -/
  | blkLoad (bytes : List Byte) (fill : Byte)
  /-- `.word w` or `.word w, imm`. -/
  | word (w : Word) (imm : Option Operand)
  deriving DecidableEq, Repr

/-- The block `{b0, ..., bk, fill v}`: every byte after the listed ones is `v` (R69). -/
def blockLiteral (bytes : List Byte) (fill : Byte) : Block :=
  packLanes fun i => bytes.getD i.val fill

/-- What a line presents to the block: an omitted operand is `DIN = 0` (R69). -/
def assemble : AsmLine → Transaction
  | .command i imm => { cmd := encode i, din := imm.getD 0, blkIn := 0 }
  | .blkLoad bytes fill => { cmd := encode .blkLoad, din := 0, blkIn := blockLiteral bytes fill }
  | .word w imm => { cmd := w, din := imm.getD 0, blkIn := 0 }

/-- A pseudo-instruction of R70. -/
inductive Pseudo where
  | setPcr (base ext : Operand)
  | getPcr
  | frame (pid cc : Operand)
  | setSync
  | chain (lines : List AsmLine)
  deriving DecidableEq, Repr

/-- The commands a pseudo-instruction stands for, in order, nothing between them (R70). -/
def Pseudo.expand : Pseudo → List AsmLine
  | .setPcr base ext => [.command .setPcrBase (some base), .command .setPcrExt (some ext)]
  | .getPcr => [.command .getPcrBase none, .command .getPcrExt none]
  | .frame pid cc =>
    [.command .nullPkt none, .command .setPid (some pid), .command .setCc (some cc)]
  | .setSync => [.command (.byteWr 0) (some 0x47)]
  | .chain lines => lines

/-- The host issues these lines after what it already has pending (20_memory.md R50). -/
def State.issue (s : State) (lines : List AsmLine) : State :=
  { s with pending := s.pending ++ lines.map fun l => .command (assemble l) }

end Sys2Proof.Machine
end

