-- ==== Sys2Proof/Machine/AccessSets.lean ====
section
/-! DEFINITION. The access sets of 20_memory.md R46 as data: which bits each command writes and which
bytes it reads. `exec` does not use them; claims hold `exec` against them. -/

namespace Sys2Proof.Machine

/-- The setters of files 41 to 43 (00_scope.md R16, 41_header.md R100). -/
def isFieldSetter : Instr → Bool
  | .setTei | .setPusi | .setTp | .setPid | .setSc | .setPayload | .setCc | .ccReset
  | .setAfLen | .setDisc | .clrDisc | .setRai | .setEspi | .setPcrf | .setPcrBase | .setPcrExt => true
  | .nullPkt | .blkLoad | .blkRead | .byteRd _ | .byteWr _ | .syncOk
  | .getTei | .getPusi | .getTp | .getPid | .getSc | .getAfc | .getPayload | .getCc | .getAfLen
  | .getDisc | .getRai | .getEspi | .getPcrf | .getPcrBase | .getPcrExt => false

/-- The commands without side effects: the getters, SYNC_OK, BYTE_RD and BLK_READ (20_memory.md R48). -/
def isReader : Instr → Bool
  | .blkRead | .byteRd _ | .syncOk
  | .getTei | .getPusi | .getTp | .getPid | .getSc | .getAfc | .getPayload | .getCc | .getAfLen
  | .getDisc | .getRai | .getEspi | .getPcrf | .getPcrBase | .getPcrExt => true
  | .nullPkt | .blkLoad | .byteWr _
  | .setTei | .setPusi | .setTp | .setPid | .setSc | .setPayload | .setCc | .ccReset
  | .setAfLen | .setDisc | .clrDisc | .setRai | .setEspi | .setPcrf | .setPcrBase | .setPcrExt =>
    false

/-- The bits of byte `j` that SET_AF_LEN writes (the two SET_AF_LEN rows of R46, with R141 and R142). -/
def afLenWriteMask (cfg : Config) (len : Byte) (j : Index) : Byte :=
  if len = 0 then
    match cfg.afZeroLen with
    | .noop => 0
    | .writeLen => maskAt 4 0xFF j
    | .setAndWrite => maskAt 3 0x20 j ||| maskAt 4 0xFF j
  else if 2 ≤ len.toNat ∧ 6 ≤ j.val ∧ j.val ≤ fillEnd cfg len then 0xFF
  else maskAt 3 0x20 j ||| maskAt 4 0xFF j ||| maskAt 5 0xFF j

/-- The bits of byte `j` that a command writes (the "writes" column of R46). -/
def writeMask (cfg : Config) (din : Operand) (i : Instr) (j : Index) : Byte :=
  match i with
  | .nullPkt | .blkLoad => 0xFF
  | .byteWr idx => if j.val = idx.toNat then 0xFF else 0
  | .setTei => maskAt 1 0x80 j
  | .setPusi => maskAt 1 0x40 j
  | .setTp => maskAt 1 0x20 j
  | .setPid => maskAt 1 0x1F j ||| maskAt 2 0xFF j
  | .setSc => maskAt 3 0xC0 j
  | .setPayload => maskAt 3 0x10 j
  | .setCc | .ccReset => maskAt 3 0x0F j
  | .setAfLen => afLenWriteMask cfg (afLenOperand din) j
  | .setDisc | .clrDisc => maskAt 5 0x80 j
  | .setRai => maskAt 5 0x40 j
  | .setEspi => maskAt 5 0x20 j
  | .setPcrf => maskAt 5 0x10 j
  | .setPcrBase =>
    maskAt 5 0x10 j ||| maskAt 6 0xFF j ||| maskAt 7 0xFF j ||| maskAt 8 0xFF j |||
      maskAt 9 0xFF j ||| maskAt 10 0xFE j
  | .setPcrExt => maskAt 10 0x01 j ||| maskAt 11 0xFF j
  | .blkRead | .byteRd _ | .syncOk
  | .getTei | .getPusi | .getTp | .getPid | .getSc | .getAfc | .getPayload | .getCc | .getAfLen
  | .getDisc | .getRai | .getEspi | .getPcrf | .getPcrBase | .getPcrExt => 0

/-- Whether a command reads byte `j` (the "reads" column of R46). -/
def readsByte (i : Instr) (j : Index) : Bool :=
  match i with
  | .nullPkt | .blkLoad | .byteWr _ => false
  | .blkRead => true
  | .byteRd idx => j.val = idx.toNat
  | .syncOk => j.val = 0
  | .setTei | .setPusi | .setTp | .getTei | .getPusi | .getTp | .setPid => j.val = 1
  | .getPid => j.val = 1 || j.val = 2
  | .setSc | .getSc | .getAfc | .setPayload | .getPayload | .setCc | .getCc | .ccReset
  | .setAfLen => j.val = 3
  | .getAfLen => j.val = 4
  | .setDisc | .clrDisc | .getDisc | .setRai | .getRai | .setEspi | .getEspi
  | .setPcrf | .getPcrf => j.val = 5
  | .setPcrBase => j.val = 5 || j.val = 10
  | .getPcrBase => 6 ≤ j.val && j.val ≤ 10
  | .setPcrExt => j.val = 10
  | .getPcrExt => j.val = 10 || j.val = 11

end Sys2Proof.Machine
end

