-- ==== Sys2Proof/Safety.lean ====
section
/-! DEFINITION. The terms claims are stated in: the invariant, a run without colliding hosts, and what
it says that a command completes with a given result, buffer and frame. -/

namespace Sys2Proof.Machine

/-- The invariant: the buffer is in canonical form and the configuration is one R8 admits. -/
abbrev State.Inv (s : State) : Prop := s.buf.wf ∧ s.cfg.wf

/-- No two hosts collide in what is pending: the caller obligation (g) of 70_reset_and_hazards.md R246. -/
def State.serialised (s : State) : Prop := ∀ a b : Transaction, HostEvent.collide a b ∉ s.pending

/-- Everything but the buffer and the response is as before. -/
abbrev State.Keeps (s t : State) : Prop :=
  t.cfg = s.cfg ∧ t.pending = s.pending ∧ t.din = s.din ∧ t.blkIn = s.blkIn

/-- Command `i` completes in `s` with `STATUS = OK`, `DOUT = d` and byte `j` of the buffer `bytes j`
for every one of the 188 indices, and keeps everything else. -/
def Completes (i : Instr) (s : State) (d : Operand) (bytes : Index → Byte) : Prop :=
  ∃ t, exec i s = .next t ∧ t.status = 0b00#2 ∧ t.dout = d ∧ (∀ j, t.readB j = bytes j) ∧ s.Keeps t

/-- Command `i` is answered in `s` with `STATUS = ILLEGAL` and `DOUT = 0` and has no other effect. -/
def AnsweredIllegal (i : Instr) (s : State) : Prop :=
  ∃ t, exec i s = .next t ∧ t.status = 0b01#2 ∧ t.dout = 0 ∧ t.buf = s.buf ∧ s.Keeps t

/-- The state with another operand at the port. -/
def State.withDin (s : State) (d : Operand) : State := { s with din := d }

/-- The state with another block at the port. -/
def State.withBlkIn (s : State) (b : Block) : State := { s with blkIn := b }

/-- Word `w` is the encoding of `i`, both ways. -/
abbrev Encodes (w : Word) (i : Instr) : Prop := decode w = .legal i ∧ encode i = w

/-- If `i` takes a state where a bit of mask `m` in byte `k` is set to one where it is clear, then `P i`
holds of the command and the state it ran in. -/
def ClearsOnly (k : Index) (m : Byte) (P : Instr → State → Prop) : Prop :=
  ∀ i s t, exec i s = .next t → s.readB k &&& m ≠ 0 → t.readB k &&& m = 0 → P i s

/-- What the transactions do when performed one after the other, each on the buffer as the one before left
it (20_memory.md R50): a legal word as its command, an illegal word by R66's response alone. It knows no
queue. -/
def performInOrder : List Transaction → State → Host.Outcome State Fault Refusal
  | [], s => .next s
  | t :: ts, s =>
    match decode t.cmd with
    | .illegal _ => performInOrder ts { s with status := 0b01#2, dout := 0 }
    | .legal i =>
      match exec i ((s.withDin t.din).withBlkIn t.blkIn) with
      | .next u => performInOrder ts u
      | .fault f => .fault f
      | .refused r => .refused r

/-- `n` steps from `s` answer a state with nothing else pending than `rest`, in which the buffer and the last
response are those of performing `ts` in order. -/
def ServesInOrder (n : Nat) (ts : List Transaction) (rest : List HostEvent) (s : State) : Prop :=
  ∃ u v, Host.Core.run Sys2Proof.core n s = .next u ∧ performInOrder ts s = .next v ∧
    u.buf = v.buf ∧ u.status = v.status ∧ u.dout = v.dout ∧ u.pending = rest ∧ u.cfg = s.cfg

/-! ### The caller obligations of 70_reset_and_hazards.md R246, which the block does not check -/

/-- (a) A valid transport packet: "callers validate on ingest". -/
abbrev State.syncValid (s : State) : Prop := s.readB 0 = 0x47

/-- (b) The adaptation-field length is in the table's range "0..183". The rule also asks that it respect
"MPEG's total-184-byte-remaining constraint", which the spec gives no formula for; `L ≤ 183` is all the model
takes (b) to ask (DESIGN CHOICE, log 16). -/
abbrev State.lengthInRange (s : State) : Prop := (s.readB 4).toNat ≤ 183

/-- (c) The stored value is a PCR (43_pcr.md R174). -/
abbrev State.pcrMeaningful (s : State) : Prop := s.readB 3 &&& 0x20 ≠ 0 ∧ s.readB 5 &&& 0x10 ≠ 0

/-- (d) Byte `j` lies in the declared adaptation field, bytes 5..4+L (42_adaptation.md R141). -/
abbrev State.insideField (s : State) (j : Index) : Prop := 5 ≤ j.val ∧ j.val ≤ 4 + (s.readB 4).toNat

/-- (e) The byte-5 flags are meaningful. -/
abbrev State.flagsMeaningful (s : State) : Prop := s.readB 3 &&& 0x20 ≠ 0 ∧ 1 ≤ (s.readB 4).toNat

/-- (f) A PCR lies within the adaptation field. -/
abbrev State.pcrInsideField (s : State) : Prop := 7 ≤ (s.readB 4).toNat

/-! ### Legal and illegal words as numbers -/

/-- `OP` of the word, as a number (30_encoding.md R60). -/
abbrev opNumber (w : Word) : Nat := w.toNat % 64

/-- `RSV` of the word, as a number (R60). -/
abbrev rsvNumber (w : Word) : Nat := w.toNat / 64 % 4

/-- `IDX` of the word, as a number (R60). -/
abbrev idxNumber (w : Word) : Nat := w.toNat / 256

/-- `OP` is one of `0x00`, `0x07`, `0x23`, `0x28`..`0x3F` (R66 (a)). -/
abbrev unassignedOp (op : Nat) : Prop := op = 0x00 ∨ op = 0x07 ∨ op = 0x23 ∨ 0x28 ≤ op

/-- `OP` is BYTE_RD or BYTE_WR (R62). -/
abbrev indexedOp (op : Nat) : Prop := op = 0x04 ∨ op = 0x05

/-- The conditions (a) to (d) of R66, on the word as a number. -/
abbrev IllegalWord (w : Word) : Prop :=
  unassignedOp (opNumber w) ∨ rsvNumber w ≠ 0 ∨
    (¬ unassignedOp (opNumber w) ∧ ¬ indexedOp (opNumber w) ∧ idxNumber w ≠ 0) ∨
    (indexedOp (opNumber w) ∧ 188 ≤ idxNumber w)

end Sys2Proof.Machine
end

