-- ==== Sys2Proof/Certificates/Slice0/Obligations.lean ====
section
/-! DEFINITION. What is claimed of the block, from the numbered rules of spec/. `Completes i s d bytes`
(Safety.lean) says that `exec i s` answers a next state with `STATUS = 00`, `DOUT = d`, byte `j` equal to
`bytes j` for every index `j`, and everything but buffer and response kept; so a statement of that form
states result, completion and frame at once. `BLK_OUT` outside BLK_READ is never stated (R24). -/

open Sys2Proof Sys2Proof.Machine

/-! ### Encoding (30_encoding.md) -/

/-- R60 to R62, R65: no bit of a command is lost between the encoder and the decoder. -/
def Obligations.DecodeOfEncodeIsTheInstruction : Prop :=
  ∀ i : Instr, i.wf = true → decode (encode i) = .legal i

/-- R65, R67: a legal word stands for one well-formed command and is the word of that command. -/
def Obligations.LegalWordReencodesToItself : Prop :=
  ∀ (w : Word) (i : Instr), decode w = .legal i → i.wf = true ∧ encode i = w

/-- R66: a word is illegal exactly under conditions (a) to (d), and an illegal word changes no byte and
returns DOUT = 0 with STATUS = ILLEGAL. That it is presented and consumed as the first entry of a queue is the
model's (log 2). -/
def Obligations.WordsAreIllegalExactlyAsRule66Says : Prop :=
  (∀ w : Word, (∃ c, decode w = .illegal c) ↔ IllegalWord w) ∧
  ∀ (s : State) (t : Transaction) (rest : List HostEvent),
    s.pending = .command t :: rest → IllegalWord t.cmd →
      ∃ u, step s = .next u ∧ u.status = 0b01#2 ∧ u.dout = 0 ∧ u.buf = s.buf ∧ u.cfg = s.cfg ∧
        u.pending = rest

/-- R67: the decoder has 411 legal command words. -/
def Obligations.ExactlyFourHundredElevenLegalWords : Prop :=
  ∃ l : List Word, l.length = 411 ∧ l.Nodup ∧ ∀ w : Word, w ∈ l ↔ ∃ i, decode w = .legal i

/-- R60 to R66 on words written out from the opcode map and from 95_test_vectors.md. -/
def Obligations.SampleWordsDecodeAsTheMapSays : Prop :=
  decode 0x0001#16 = .legal .nullPkt ∧ decode 0x0304#16 = .legal (.byteRd 3) ∧
  decode 0xBB04#16 = .legal (.byteRd 187) ∧ decode 0x0C05#16 = .legal (.byteWr 12) ∧
  decode 0x000E#16 = .legal .setPid ∧ decode 0x0018#16 = .legal .setAfLen ∧
  decode 0x0024#16 = .legal .setPcrBase ∧ decode 0xBC04#16 = .illegal .indexOutOfRange ∧
  decode 0x0048#16 = .illegal .reservedBits ∧ decode 0x010E#16 = .illegal .indexOnFormatN ∧
  decode 0x0023#16 = .illegal .unassignedOpcode

/-! ### One step (10_state.md R24, 20_memory.md R47 to R50, 60_exceptions.md) -/

/-- R24: the step performs the command the presented word decodes to, with that transaction's operands.
The queue of the host's inputs is the model's (log 2). -/
def Obligations.StepPerformsTheDecodedCommand : Prop :=
  ∀ (s : State) (t : Transaction) (rest : List HostEvent) (i : Instr),
    s.pending = .command t :: rest → decode t.cmd = .legal i →
      step s = exec i { s with pending := rest, din := t.din, blkIn := t.blkIn }

/-- The word placed by `withFetchWord` is the one the next step performs (log 12). -/
def Obligations.FetchWordIsPerformedNext : Prop :=
  ∀ (s : State) (nbits w : Nat) (i : Instr), decodeTableWord nbits w = some i →
    step (s.withFetchWord nbits w) = exec i s

/-- R216: after an ILLEGAL response the block accepts the next command as after any other response. -/
def Obligations.CommandAfterIllegalWordIsServedAsUsual : Prop :=
  ∀ (s : State) (a b : Transaction) (rest : List HostEvent),
    s.pending = .command a :: .command b :: rest → IllegalWord a.cmd →
      ∃ u v v', step s = .next u ∧ step u = .next v ∧
        step { s with pending := .command b :: rest } = .next v' ∧
        v.status = v'.status ∧ v.dout = v'.dout ∧ v.buf = v'.buf ∧ v.cfg = v'.cfg ∧
        v.pending = v'.pending

/-- R212: STATUS is 00 for every legal word and 01 for every illegal word, never 10 or 11. The queue the word
is presented in is the model's (log 2). -/
def Obligations.StatusIsOkForLegalWordsOnly : Prop :=
  ∀ (s : State) (t : Transaction) (rest : List HostEvent), s.pending = .command t :: rest →
    ∃ u, step s = .next u ∧ (¬ IllegalWord t.cmd → u.status = 0b00#2) ∧
      (IllegalWord t.cmd → u.status = 0b01#2)

/-- R210: no command fails, whatever the buffer and the operands hold. -/
def Obligations.EveryWellFormedCommandCompletes : Prop :=
  ∀ (i : Instr) (s : State), i.wf = true → ∃ t, exec i s = .next t ∧ t.status = 0b00#2

/-- R56: the model refuses a step in which two hosts' commands collide, and stops for no other reason.
The collision as an input is the model's way to say R56 (log 10). -/
def Obligations.StopsOnlyWhenHostsCollide : Prop :=
  (∀ (s : State) (a b : Transaction) (rest : List HostEvent),
    s.pending = .collide a b :: rest → step s = .refused .concurrentHosts) ∧
  (∀ (s : State) (r : Refusal), step s = .refused r →
    r = .concurrentHosts ∧ ∃ a b rest, s.pending = .collide a b :: rest) ∧
  ∀ (s : State) (f : Fault), step s ≠ .fault f

/-- R241 (log 2): with no command presented the block waits, and nothing changes. -/
def Obligations.WaitsWhileNothingIsPresented : Prop :=
  ∀ s : State, s.pending = [] → step s = .next s

/-- R50, R248: any number of presented commands are served in order, each on the buffer as the earlier ones
left it, and none blocks: the run leaves the buffer and the last response of performing them one after the
other. The queue they are consumed from is the model's (log 2), and so is one command a step (log 13). -/
def Obligations.PresentedCommandsAreServedOneAStep : Prop :=
  ∀ (ts : List Transaction) (rest : List HostEvent) (s : State),
    s.pending = ts.map HostEvent.command ++ rest →
      ServesInOrder ts.length ts rest s

/-- R20, R28: nothing but the buffer (and the fixed configuration) is carried into a transaction. The queue
the transaction is presented in is the model's (log 2). -/
def Obligations.OnlyTheBufferIsCarriedBetweenCommands : Prop :=
  ∀ (s s' : State) (t : Transaction) (rest rest' : List HostEvent),
    s.pending = .command t :: rest → s'.pending = .command t :: rest' →
    s.cfg = s'.cfg → s.buf = s'.buf →
      ∃ u u', step s = .next u ∧ step s' = .next u' ∧ u.buf = u'.buf ∧ u.status = u'.status ∧
        u.dout = u'.dout ∧ (decode t.cmd = .legal .blkRead → u.blkOut = u'.blkOut)

/-! ### Reset (70_reset_and_hazards.md R240, 10_state.md R31) and the invariant -/

/-- R31: the buffer after reset, byte by byte, for every configuration. Under UNSPECIFIED each byte is a
free value, so the claim holds for whatever was drawn (log 8). -/
def Obligations.ResetBufferIsAsRule31Says : Prop :=
  (∀ cfg : Config, cfg.resetMode = .nullPacket → ∀ j : Index,
    (State.resetWith cfg).readB j =
      if j = 0 then 0x47 else if j = 1 then cfg.nullB1 else if j = 2 then 0xFF
      else if j = 3 then cfg.nullB3 else 0xFF) ∧
  (∀ cfg : Config, cfg.resetMode = .unspecified → ∀ j : Index,
    (State.resetWith cfg).readB j = Config.freeByte 0 j.val) ∧
  State.reset = State.resetWith
    { afZeroLen := .noop, afFill := .toEnd, nullB1 := 0x1F, nullB3 := 0x00, resetMode := .nullPacket }

/-- R240: a reset leaves the buffer exactly as its mode says, whatever was in progress, and sets no other
state. The reset as a host input is the model's (log 9). -/
def Obligations.ResetLeavesTheBufferOfItsMode : Prop :=
  ∀ (s : State) (cut : Option Transaction) (rest : List HostEvent),
    s.pending = .reset cut :: rest →
      ∃ t, step s = .next t ∧ t.cfg = s.cfg ∧ t.pending = rest ∧ t.din = s.din ∧ t.blkIn = s.blkIn ∧
        (s.cfg.resetMode = .nullPacket → ∃ u, exec .nullPkt s = .next u ∧ t.buf = u.buf) ∧
        (s.cfg.resetMode = .unspecified → ∀ j, t.readB j = Config.freeByte s.draws j.val)

/-- The invariant holds after reset, for every configuration R8 admits. The canonical form of the buffer is
the model's representation of it (log 7), no rule of the spec. -/
def Obligations.ResetMeetsTheInvariant : Prop :=
  State.reset.Inv ∧ ∀ cfg : Config, cfg.wf → (State.resetWith cfg).Inv

/-- Every step keeps the buffer canonical and the configuration admissible (R8, R26). The canonical form is
the model's representation of the 188 bytes of R20 (log 7), no rule of the spec. -/
def Obligations.EveryStepKeepsTheInvariant : Prop :=
  ∀ s t : State, s.Inv → step s = .next t → t.Inv

/-- R26: the configuration parameters do not change during a run. -/
def Obligations.NoStepChangesTheConfiguration : Prop :=
  ∀ s t : State, step s = .next t → t.cfg = s.cfg

/-! ### Header family (41_header.md) -/

/-- R102: SYNC_OK compares byte 0 with 0x47, and only NULL_PKT, BYTE_WR and BLK_LOAD write byte 0. -/
def Obligations.SyncOkReportsTheSyncByte : Prop :=
  Encodes 0x0006#16 .syncOk ∧
  (∀ s : State, Completes .syncOk s (if s.readB 0 = 0x47 then 1 else 0) s.readB) ∧
  ∀ (i : Instr) (s t : State), exec i s = .next t → t.readB 0 ≠ s.readB 0 →
    i = .nullPkt ∨ i = .blkLoad ∨ i = .byteWr 0

/-- R103, R105, R107, R114: each flag setter ORs its one bit and nothing else, no field command clears
that bit, SET_PID keeps TP (R107) and SET_CC keeps the payload-present bit (R114). -/
def Obligations.HeaderFlagSettersOrTheirBitOnly : Prop :=
  (Encodes 0x0008#16 .setTei ∧ Encodes 0x000A#16 .setPusi ∧ Encodes 0x000C#16 .setTp ∧
    Encodes 0x0013#16 .setPayload) ∧
  (∀ s : State,
    Completes .setTei s 0 (fun j => if j = 1 then s.readB 1 ||| 0x80 else s.readB j) ∧
    Completes .setPusi s 0 (fun j => if j = 1 then s.readB 1 ||| 0x40 else s.readB j) ∧
    Completes .setTp s 0 (fun j => if j = 1 then s.readB 1 ||| 0x20 else s.readB j) ∧
    Completes .setPayload s 0 (fun j => if j = 3 then s.readB 3 ||| 0x10 else s.readB j)) ∧
  (∀ m : Byte, m = 0x80 ∨ m = 0x40 ∨ m = 0x20 →
    ClearsOnly 1 m fun i s =>
      (i = .nullPkt ∧ s.cfg.nullB1 &&& m = 0) ∨ i = .blkLoad ∨ i = .byteWr 1) ∧
  (ClearsOnly 3 0x10 fun i s =>
    (i = .nullPkt ∧ s.cfg.nullB3 &&& 0x10 = 0) ∨ i = .blkLoad ∨ i = .byteWr 3) ∧
  ∀ s : State,
    (∃ t, exec .setPid s = .next t ∧ t.readB 1 &&& 0x20 = s.readB 1 &&& 0x20) ∧
    ∃ t, exec .setCc s = .next t ∧ t.readB 3 &&& 0x10 = s.readB 3 &&& 0x10

/-- R104, R106, R108, R115: each flag getter returns exactly 1 or 0 by its own bit. -/
def Obligations.HeaderFlagGettersReportTheirBit : Prop :=
  (Encodes 0x0009#16 .getTei ∧ Encodes 0x000B#16 .getPusi ∧ Encodes 0x000D#16 .getTp ∧
    Encodes 0x0014#16 .getPayload) ∧
  ∀ s : State,
    Completes .getTei s (if s.readB 1 &&& 0x80 ≠ 0 then 1 else 0) s.readB ∧
    Completes .getPusi s (if s.readB 1 &&& 0x40 ≠ 0 then 1 else 0) s.readB ∧
    Completes .getTp s (if s.readB 1 &&& 0x20 ≠ 0 then 1 else 0) s.readB ∧
    Completes .getPayload s (if s.readB 3 &&& 0x10 ≠ 0 then 1 else 0) s.readB

/-- GET_AFC reads the AF-present bit (R113). What sets it is SET_AF_LEN among the field commands (R113, R142)
or a whole-byte write of byte 3 (R192, R196), and what clears it is NULL_PKT or such a write, as derived from
these rules together. -/
def Obligations.AfPresentIsReadByGetAfcAndSetBySetAfLen : Prop :=
  Encodes 0x0012#16 .getAfc ∧
  (∀ s : State, Completes .getAfc s (if s.readB 3 &&& 0x20 ≠ 0 then 1 else 0) s.readB) ∧
  (∀ (i : Instr) (s t : State), s.cfg.wf → exec i s = .next t → s.readB 3 &&& 0x20 = 0 →
    t.readB 3 &&& 0x20 ≠ 0 →
      (i = .setAfLen ∧ (s.din.toNat % 256 ≠ 0 ∨ s.cfg.afZeroLen = .setAndWrite)) ∨
        i = .blkLoad ∨ i = .byteWr 3) ∧
  ClearsOnly 3 0x20 fun i _ => i = .nullPkt ∨ i = .blkLoad ∨ i = .byteWr 3

/-- R109: SET_PID writes 13 bits of DIN over bytes 1 and 2 and keeps the three flags. -/
def Obligations.SetPidWritesThirteenBits : Prop :=
  Encodes 0x000E#16 .setPid ∧
  ∀ s : State, Completes .setPid s 0 fun j =>
    if j = 1 then (s.readB 1 &&& 0xE0) ||| BitVec.ofNat 8 (s.din.toNat % 8192 / 256)
    else if j = 2 then BitVec.ofNat 8 (s.din.toNat % 256)
    else s.readB j

/-- R110: GET_PID, and its round trip with SET_PID. -/
def Obligations.GetPidReadsBackSetPid : Prop :=
  Encodes 0x000F#16 .getPid ∧
  (∀ s : State, Completes .getPid s
    (BitVec.ofNat 64 ((s.readB 1).toNat % 32 * 256 + (s.readB 2).toNat)) s.readB) ∧
  ∀ s : State, ∃ t, exec .setPid s = .next t ∧
    Completes .getPid t (BitVec.ofNat 64 (s.din.toNat % 8192)) t.readB

/-- R111: SET_SC clears the two bits, then writes two bits of DIN; the low six bits stay. -/
def Obligations.SetScReplacesTwoBits : Prop :=
  Encodes 0x0010#16 .setSc ∧
  ∀ s : State, Completes .setSc s 0 fun j =>
    if j = 3 then (s.readB 3 &&& 0x3F) ||| BitVec.ofNat 8 (s.din.toNat % 4 * 64) else s.readB j

/-- R112: GET_SC, and its round trip with SET_SC. -/
def Obligations.GetScReadsBackSetSc : Prop :=
  Encodes 0x0011#16 .getSc ∧
  (∀ s : State, Completes .getSc s (BitVec.ofNat 64 ((s.readB 3).toNat / 64)) s.readB) ∧
  ∀ s : State, ∃ t, exec .setSc s = .next t ∧
    Completes .getSc t (BitVec.ofNat 64 (s.din.toNat % 4)) t.readB

/-- R116: SET_CC stores DIN modulo 16 and keeps the high nibble. -/
def Obligations.SetCcStoresModuloSixteen : Prop :=
  Encodes 0x0015#16 .setCc ∧
  ∀ s : State, Completes .setCc s 0 fun j =>
    if j = 3 then (s.readB 3 &&& 0xF0) ||| BitVec.ofNat 8 (s.din.toNat % 16) else s.readB j

/-- R117: GET_CC, and its round trip with SET_CC. -/
def Obligations.GetCcReadsBackSetCc : Prop :=
  Encodes 0x0016#16 .getCc ∧
  (∀ s : State, Completes .getCc s (BitVec.ofNat 64 ((s.readB 3).toNat % 16)) s.readB) ∧
  ∀ s : State, ∃ t, exec .setCc s = .next t ∧
    Completes .getCc t (BitVec.ofNat 64 (s.din.toNat % 16)) t.readB

/-- R118: CC_RESET clears the low nibble of byte 3, as SET_CC 0 does. -/
def Obligations.CcResetIsSetCcZero : Prop :=
  Encodes 0x0017#16 .ccReset ∧
  (∀ s : State, Completes .ccReset s 0 fun j =>
    if j = 3 then s.readB 3 &&& 0xF0 else s.readB j) ∧
  ∀ s : State, ∃ t u, exec .ccReset s = .next t ∧ exec .setCc (s.withDin 0) = .next u ∧
    (∀ j, t.readB j = u.readB j) ∧ t.status = u.status ∧ t.dout = u.dout

/-! ### Adaptation field family (42_adaptation.md) -/

/-- R140, R141, R142: every byte SET_AF_LEN leaves, for every length and every configuration. -/
def Obligations.SetAfLenWritesLengthFlagsAndStuffing : Prop :=
  Encodes 0x0018#16 .setAfLen ∧
  ∀ s : State, Completes .setAfLen s 0 fun j =>
    let len := s.din.toNat % 256
    let last := match s.cfg.afFill with
      | .toEnd => 187
      | .bounded => min 187 (4 + len)
    if len = 0 then
      match s.cfg.afZeroLen with
      | .noop => s.readB j
      | .writeLen => if j = 4 then 0x00 else s.readB j
      | .setAndWrite => if j = 3 then s.readB 3 ||| 0x20 else if j = 4 then 0x00 else s.readB j
    else if j = 3 then s.readB 3 ||| 0x20
    else if j = 4 then BitVec.ofNat 8 len
    else if j = 5 then 0x00
    else if 2 ≤ len ∧ 6 ≤ j.val ∧ j.val ≤ last then 0xFF
    else s.readB j

/-- R143: GET_AF_LEN returns byte 4 whether or not an adaptation field is present, and reads back a
declared length. -/
def Obligations.GetAfLenReturnsByteFour : Prop :=
  Encodes 0x0019#16 .getAfLen ∧
  (∀ s : State, Completes .getAfLen s (BitVec.ofNat 64 (s.readB 4).toNat) s.readB) ∧
  ∀ s : State, s.din.toNat % 256 ≠ 0 → ∃ t, exec .setAfLen s = .next t ∧
    Completes .getAfLen t (BitVec.ofNat 64 (s.din.toNat % 256)) t.readB

/-- R144, R147, R149, R151: each byte-5 flag setter ORs its one bit and nothing else, the three flags
without a clear command are cleared only by SET_AF_LEN, BLK_LOAD and BYTE_WR, and SET_PCR_BASE also sets
the PCR-present flag (R151). -/
def Obligations.ByteFiveFlagSettersOrTheirBitOnly : Prop :=
  (Encodes 0x001A#16 .setDisc ∧ Encodes 0x001D#16 .setRai ∧ Encodes 0x001F#16 .setEspi ∧
    Encodes 0x0021#16 .setPcrf) ∧
  (∀ s : State,
    Completes .setDisc s 0 (fun j => if j = 5 then s.readB 5 ||| 0x80 else s.readB j) ∧
    Completes .setRai s 0 (fun j => if j = 5 then s.readB 5 ||| 0x40 else s.readB j) ∧
    Completes .setEspi s 0 (fun j => if j = 5 then s.readB 5 ||| 0x20 else s.readB j) ∧
    Completes .setPcrf s 0 (fun j => if j = 5 then s.readB 5 ||| 0x10 else s.readB j)) ∧
  (∀ m : Byte, m = 0x40 ∨ m = 0x20 ∨ m = 0x10 →
    ClearsOnly 5 m fun i s =>
      (i = .setAfLen ∧ s.din.toNat % 256 ≠ 0) ∨ i = .blkLoad ∨ i = .byteWr 5) ∧
  ∀ s : State, ∃ t, exec .setPcrBase s = .next t ∧ t.readB 5 &&& 0x10 ≠ 0

/-- R145: CLR_DISC clears the discontinuity bit alone, and it is the only flag clear command: every other
flag is cleared by a command that writes whole bytes. -/
def Obligations.ClrDiscClearsOneBit : Prop :=
  Encodes 0x001B#16 .clrDisc ∧
  (∀ s : State, Completes .clrDisc s 0 fun j =>
    if j = 5 then s.readB 5 &&& 0x7F else s.readB j) ∧
  (ClearsOnly 5 0x80 fun i s =>
    i = .clrDisc ∨ (i = .setAfLen ∧ s.din.toNat % 256 ≠ 0) ∨ i = .blkLoad ∨ i = .byteWr 5) ∧
  ∀ (k : Index) (m : Byte),
    (k, m) ∈ [(1, 0x80), (1, 0x40), (1, 0x20), (3, 0x20), (3, 0x10), (5, 0x40), (5, 0x20), (5, 0x10)] →
      ClearsOnly k m fun i _ =>
        i = .nullPkt ∨ i = .setAfLen ∨ i = .blkLoad ∨ ∃ idx, i = .byteWr idx

/-- R146, R148, R150, R152: each byte-5 flag getter returns exactly 1 or 0 by its own bit. -/
def Obligations.ByteFiveFlagGettersReportTheirBit : Prop :=
  (Encodes 0x001C#16 .getDisc ∧ Encodes 0x001E#16 .getRai ∧ Encodes 0x0020#16 .getEspi ∧
    Encodes 0x0022#16 .getPcrf) ∧
  ∀ s : State,
    Completes .getDisc s (if s.readB 5 &&& 0x80 ≠ 0 then 1 else 0) s.readB ∧
    Completes .getRai s (if s.readB 5 &&& 0x40 ≠ 0 then 1 else 0) s.readB ∧
    Completes .getEspi s (if s.readB 5 &&& 0x20 ≠ 0 then 1 else 0) s.readB ∧
    Completes .getPcrf s (if s.readB 5 &&& 0x10 ≠ 0 then 1 else 0) s.readB

/-- R245: SET_AF_LEN with a length clears all of byte 5, and under TO_END its stuffing covers the PCR and
the payload. -/
def Obligations.SetAfLenErasesFlagsPcrAndPayload : Prop :=
  ∀ s : State, s.din.toNat % 256 ≠ 0 → ∃ t, exec .setAfLen s = .next t ∧
    Completes .getDisc t 0 t.readB ∧ Completes .getRai t 0 t.readB ∧
    Completes .getEspi t 0 t.readB ∧ Completes .getPcrf t 0 t.readB ∧
    (2 ≤ s.din.toNat % 256 → s.cfg.afFill = .toEnd →
      Completes .getPcrBase t 0x1FFFFFFFF t.readB ∧ Completes .getPcrExt t 511 t.readB ∧
      ∀ j : Index, 12 ≤ j.val → t.readB j = 0xFF)

/-! ### PCR family (43_pcr.md) -/

/-- R170: SET_PCR_BASE writes 33 bits of DIN over bytes 6 to 10, sets the PCR-present flag and the
reserved bits, and keeps extension bit 8. -/
def Obligations.SetPcrBaseWritesThirtyThreeBits : Prop :=
  Encodes 0x0024#16 .setPcrBase ∧
  ∀ s : State, Completes .setPcrBase s 0 fun j =>
    let base := s.din.toNat % 2 ^ 33
    if j = 5 then s.readB 5 ||| 0x10
    else if j = 6 then BitVec.ofNat 8 (base / 2 ^ 25)
    else if j = 7 then BitVec.ofNat 8 (base / 2 ^ 17)
    else if j = 8 then BitVec.ofNat 8 (base / 2 ^ 9)
    else if j = 9 then BitVec.ofNat 8 (base / 2)
    else if j = 10 then (s.readB 10 &&& 0x01) ||| BitVec.ofNat 8 (base % 2 * 128) ||| 0x7E
    else s.readB j

/-- R171: GET_PCR_BASE, and its round trip with SET_PCR_BASE. -/
def Obligations.GetPcrBaseReadsBackSetPcrBase : Prop :=
  Encodes 0x0025#16 .getPcrBase ∧
  (∀ s : State, Completes .getPcrBase s
    (BitVec.ofNat 64 ((s.readB 6).toNat * 2 ^ 25 + (s.readB 7).toNat * 2 ^ 17 +
      (s.readB 8).toNat * 2 ^ 9 + (s.readB 9).toNat * 2 + (s.readB 10).toNat / 128)) s.readB) ∧
  ∀ s : State, ∃ t, exec .setPcrBase s = .next t ∧
    Completes .getPcrBase t (BitVec.ofNat 64 (s.din.toNat % 2 ^ 33)) t.readB

/-- R172: SET_PCR_EXT writes 9 bits of DIN over bytes 10 and 11 and keeps the other seven bits of
byte 10; it sets no flag. -/
def Obligations.SetPcrExtWritesNineBits : Prop :=
  Encodes 0x0026#16 .setPcrExt ∧
  ∀ s : State, Completes .setPcrExt s 0 fun j =>
    if j = 10 then (s.readB 10 &&& 0xFE) ||| BitVec.ofNat 8 (s.din.toNat % 512 / 256)
    else if j = 11 then BitVec.ofNat 8 (s.din.toNat % 256)
    else s.readB j

/-- R173: GET_PCR_EXT, and its round trip with SET_PCR_EXT. -/
def Obligations.GetPcrExtReadsBackSetPcrExt : Prop :=
  Encodes 0x0027#16 .getPcrExt ∧
  (∀ s : State, Completes .getPcrExt s
    (BitVec.ofNat 64 ((s.readB 10).toNat % 2 * 256 + (s.readB 11).toNat)) s.readB) ∧
  ∀ s : State, ∃ t, exec .setPcrExt s = .next t ∧
    Completes .getPcrExt t (BitVec.ofNat 64 (s.din.toNat % 512)) t.readB

/-- R174, R175: the PCR getters see neither the presence bits nor the reserved bits, and only
SET_PCR_BASE among the field commands restores the reserved bits. -/
def Obligations.PcrGettersSeePcrBitsOnly : Prop :=
  (∀ s s' : State, s.readB 6 = s'.readB 6 → s.readB 7 = s'.readB 7 → s.readB 8 = s'.readB 8 →
    s.readB 9 = s'.readB 9 → s.readB 10 &&& 0x81 = s'.readB 10 &&& 0x81 →
    s.readB 11 = s'.readB 11 →
      ∃ base ext, Completes .getPcrBase s base s.readB ∧ Completes .getPcrBase s' base s'.readB ∧
        Completes .getPcrExt s ext s.readB ∧ Completes .getPcrExt s' ext s'.readB) ∧
  (∀ s : State, ∃ t, exec .setPcrBase s = .next t ∧ t.readB 10 &&& 0x7E = 0x7E) ∧
  ∀ (i : Instr) (s t : State), exec i s = .next t → t.readB 10 &&& 0x7E ≠ s.readB 10 &&& 0x7E →
    i = .setPcrBase ∨ i = .setAfLen ∨ i = .nullPkt ∨ i = .blkLoad ∨ i = .byteWr 10

/-! ### Packet view family (44_packet_view.md) -/

/-- R190: NULL_PKT writes all 188 bytes. -/
def Obligations.NullPktWritesTheNullPacket : Prop :=
  Encodes 0x0001#16 .nullPkt ∧
  ∀ s : State, Completes .nullPkt s 0 fun j =>
    if j = 0 then 0x47 else if j = 1 then s.cfg.nullB1 else if j = 2 then 0xFF
    else if j = 3 then s.cfg.nullB3 else 0xFF

/-- R191: what every getter returns on the null packet, for every admissible configuration. -/
def Obligations.NullPacketFieldValues : Prop :=
  ∀ s : State, s.cfg.wf → ∃ t, exec .nullPkt s = .next t ∧
    Completes .syncOk t 1 t.readB ∧
    Completes .getTei t (BitVec.ofNat 64 (s.cfg.nullB1.toNat / 128)) t.readB ∧
    Completes .getPusi t (BitVec.ofNat 64 (s.cfg.nullB1.toNat / 64 % 2)) t.readB ∧
    Completes .getTp t (BitVec.ofNat 64 (s.cfg.nullB1.toNat / 32 % 2)) t.readB ∧
    Completes .getPid t 0x1FFF t.readB ∧
    Completes .getSc t (BitVec.ofNat 64 (s.cfg.nullB3.toNat / 64)) t.readB ∧
    Completes .getAfc t 0 t.readB ∧
    Completes .getPayload t (BitVec.ofNat 64 (s.cfg.nullB3.toNat / 16 % 2)) t.readB ∧
    Completes .getCc t 0 t.readB ∧ Completes .getAfLen t 255 t.readB ∧
    Completes .getDisc t 1 t.readB ∧ Completes .getRai t 1 t.readB ∧
    Completes .getEspi t 1 t.readB ∧ Completes .getPcrf t 1 t.readB ∧
    Completes .getPcrBase t 0x1FFFFFFFF t.readB ∧ Completes .getPcrExt t 511 t.readB

/-- R192: BLK_LOAD replaces every byte by its lane of BLK_IN. -/
def Obligations.BlkLoadReplacesEveryByte : Prop :=
  Encodes 0x0002#16 .blkLoad ∧
  ∀ s : State, Completes .blkLoad s 0 fun j => s.blkIn.extractLsb' (8 * j.val) 8

/-- R193: BLK_READ drives every lane of BLK_OUT with its byte and changes no byte. -/
def Obligations.BlkReadReturnsEveryByte : Prop :=
  Encodes 0x0003#16 .blkRead ∧
  ∀ s : State, ∃ t, exec .blkRead s = .next t ∧ t.status = 0b00#2 ∧ t.dout = 0 ∧ t.buf = s.buf ∧
    s.Keeps t ∧ ∀ j : Index, t.blkOut.extractLsb' (8 * j.val) 8 = s.readB j

/-- R194: the raw conversions lose nothing, in either order. -/
def Obligations.RawConversionsAreLossless : Prop :=
  (∀ (s : State) (x : Block), ∃ t u, exec .blkLoad (s.withBlkIn x) = .next t ∧
    exec .blkRead t = .next u ∧ u.blkOut = x) ∧
  ∀ s : State, ∃ t u, exec .blkRead s = .next t ∧
    exec .blkLoad (t.withBlkIn t.blkOut) = .next u ∧ (∀ j, u.readB j = s.readB j) ∧
    (s.buf.wf → u.buf = s.buf)

/-- R195: BYTE_RD returns the indexed byte, or is illegal for an index of 188 or more. -/
def Obligations.ByteRdReturnsTheIndexedByte : Prop :=
  (∀ idx : BitVec 8, idx.toNat ≤ 187 → Encodes (BitVec.ofNat 16 (idx.toNat * 256 + 0x04)) (.byteRd idx)) ∧
  (∀ (s : State) (idx : BitVec 8) (i : Index), idx.toNat = i.val →
    Completes (.byteRd idx) s (BitVec.ofNat 64 (s.readB i).toNat) s.readB) ∧
  ∀ (s : State) (idx : BitVec 8), 188 ≤ idx.toNat → AnsweredIllegal (.byteRd idx) s

/-- R196: BYTE_WR writes DIN[7:0] to the indexed byte alone, or is illegal and writes nothing. -/
def Obligations.ByteWrWritesTheIndexedByte : Prop :=
  (∀ idx : BitVec 8, idx.toNat ≤ 187 → Encodes (BitVec.ofNat 16 (idx.toNat * 256 + 0x05)) (.byteWr idx)) ∧
  (∀ (s : State) (idx : BitVec 8) (i : Index), idx.toNat = i.val →
    Completes (.byteWr idx) s 0 fun j => if j = i then BitVec.ofNat 8 s.din.toNat else s.readB j) ∧
  ∀ (s : State) (idx : BitVec 8), 188 ≤ idx.toNat → AnsweredIllegal (.byteWr idx) s

/-! ### Rules about all commands (20_memory.md, 41_header.md R101, 70_reset_and_hazards.md R244) -/

/-- R29: every getter returns the field the map gives it. -/
def Obligations.GettersReturnTheirMappedField : Prop :=
  ∀ s : State,
    Completes .getTei s (Field.tei.value s.buf) s.readB ∧
    Completes .getPusi s (Field.pusi.value s.buf) s.readB ∧
    Completes .getTp s (Field.tp.value s.buf) s.readB ∧
    Completes .getPid s (Field.pid.value s.buf) s.readB ∧
    Completes .getSc s (Field.sc.value s.buf) s.readB ∧
    Completes .getAfc s (Field.afPresent.value s.buf) s.readB ∧
    Completes .getPayload s (Field.payloadPresent.value s.buf) s.readB ∧
    Completes .getCc s (Field.cc.value s.buf) s.readB ∧
    Completes .getAfLen s (Field.afLen.value s.buf) s.readB ∧
    Completes .getDisc s (Field.disc.value s.buf) s.readB ∧
    Completes .getRai s (Field.rai.value s.buf) s.readB ∧
    Completes .getEspi s (Field.espi.value s.buf) s.readB ∧
    Completes .getPcrf s (Field.pcrPresent.value s.buf) s.readB ∧
    Completes .getPcrBase s (Field.pcrBase.value s.buf) s.readB ∧
    Completes .getPcrExt s (Field.pcrExt.value s.buf) s.readB

/-- R46, "writes": a bit outside a command's write set is unchanged after the command. -/
def Obligations.NoCommandWritesOutsideItsWriteSet : Prop :=
  ∀ (i : Instr) (s : State), ∃ t, exec i s = .next t ∧ s.Keeps t ∧
    ∀ j, t.readB j &&& ~~~ writeMask s.cfg s.din i j = s.readB j &&& ~~~ writeMask s.cfg s.din i j

/-- R46, "reads": a command's result and the bits it writes depend only on the bytes of its read set, its
operands and the configuration. -/
def Obligations.ResultsDependOnTheReadSetOnly : Prop :=
  ∀ (i : Instr) (s s' : State), s.cfg = s'.cfg → s.din = s'.din → s.blkIn = s'.blkIn →
    (∀ j, readsByte i j = true → s.readB j = s'.readB j) →
      ∃ t t', exec i s = .next t ∧ exec i s' = .next t' ∧ t.status = t'.status ∧ t.dout = t'.dout ∧
        (i = .blkRead → t.blkOut = t'.blkOut) ∧
        ∀ j, t.readB j &&& writeMask s.cfg s.din i j = t'.readB j &&& writeMask s.cfg s.din i j

/-- R101: a setter never changes the decoded value of a field that shares no bit with its write set. -/
def Obligations.SettersNeverDisturbOtherFields : Prop :=
  ∀ (i : Instr) (f : Field) (s : State), isFieldSetter i = true →
    (∀ j, f.mask j &&& writeMask s.cfg s.din i j = 0) →
      ∃ t, exec i s = .next t ∧ f.value t.buf = f.value s.buf

/-- R51: setters with disjoint write sets leave the same buffer in either order. -/
def Obligations.DisjointSettersCommute : Prop :=
  ∀ (a b : Instr) (x y : Operand) (s : State), isFieldSetter a = true → isFieldSetter b = true →
    (∀ j, writeMask s.cfg x a j &&& writeMask s.cfg y b j = 0) →
      ∃ t u t' u', exec a (s.withDin x) = .next t ∧ exec b (t.withDin y) = .next u ∧
        exec b (s.withDin y) = .next t' ∧ exec a (t'.withDin x) = .next u' ∧
        (∀ j, u.readB j = u'.readB j) ∧ (s.buf.wf → u.buf = u'.buf)

/-- R48: every command is idempotent on the buffer; the readers change no byte and repeat their
result. -/
def Obligations.CommandsAreIdempotentAndReadersPure : Prop :=
  ∀ (i : Instr) (s : State), ∃ t u, exec i s = .next t ∧ exec i t = .next u ∧
    (∀ j, u.readB j = t.readB j) ∧ (s.buf.wf → u.buf = t.buf) ∧
    (isReader i = true → t.buf = s.buf ∧ u.dout = t.dout ∧ (i = .blkRead → u.blkOut = t.blkOut))

/-- R244: of two writes of one field the later wins; SET_DISC and CLR_DISC are such a pair. -/
def Obligations.LastWriteOfAFieldWins : Prop :=
  (∀ (i : Instr) (x y : Operand) (s : State),
    i = .setPid ∨ i = .setSc ∨ i = .setCc ∨ i = .setPcrBase ∨ i = .setPcrExt →
      ∃ t u v, exec i (s.withDin x) = .next t ∧ exec i (t.withDin y) = .next u ∧
        exec i (s.withDin y) = .next v ∧ ∀ j, u.readB j = v.readB j) ∧
  ∀ s : State, ∃ t u t' u', exec .setDisc s = .next t ∧ exec .clrDisc t = .next u ∧
    exec .clrDisc s = .next t' ∧ exec .setDisc t' = .next u' ∧
    (∀ j, u.readB j = t'.readB j) ∧ (∀ j, u'.readB j = t.readB j) ∧ u.readB 5 ≠ u'.readB 5

/-- R43: bytes 1, 3 and 10 read whole are their fields side by side. -/
def Obligations.MixedBytesHoldTheirFieldsSideBySide : Prop :=
  ∀ s : State,
    (∃ tei pusi tp pid : Nat, tei ≤ 1 ∧ pusi ≤ 1 ∧ tp ≤ 1 ∧ pid < 8192 ∧
      Completes .getTei s (BitVec.ofNat 64 tei) s.readB ∧
      Completes .getPusi s (BitVec.ofNat 64 pusi) s.readB ∧
      Completes .getTp s (BitVec.ofNat 64 tp) s.readB ∧
      Completes .getPid s (BitVec.ofNat 64 pid) s.readB ∧
      Completes (.byteRd 1) s
        (BitVec.ofNat 64 (tei * 128 + pusi * 64 + tp * 32 + pid / 256)) s.readB) ∧
    (∃ sc af pl cc : Nat, sc ≤ 3 ∧ af ≤ 1 ∧ pl ≤ 1 ∧ cc ≤ 15 ∧
      Completes .getSc s (BitVec.ofNat 64 sc) s.readB ∧
      Completes .getAfc s (BitVec.ofNat 64 af) s.readB ∧
      Completes .getPayload s (BitVec.ofNat 64 pl) s.readB ∧
      Completes .getCc s (BitVec.ofNat 64 cc) s.readB ∧
      Completes (.byteRd 3) s (BitVec.ofNat 64 (sc * 64 + af * 32 + pl * 16 + cc)) s.readB) ∧
    ∃ base res ext : Nat, base < 2 ^ 33 ∧ res < 64 ∧ ext < 512 ∧
      Completes .getPcrBase s (BitVec.ofNat 64 base) s.readB ∧
      Field.pcrReserved.value s.buf = BitVec.ofNat 64 res ∧
      Completes .getPcrExt s (BitVec.ofNat 64 ext) s.readB ∧
      Completes (.byteRd 10) s (BitVec.ofNat 64 (base % 2 * 128 + res * 2 + ext / 256)) s.readB

/-- R42, R11: the multi-byte fields are stored most significant byte first, and MemRead returns what
MemWrite wrote. -/
def Obligations.MultiByteFieldsAreMostSignificantFirst : Prop :=
  (∀ s : State,
    Completes .getPid s (BitVec.ofNat 64 ((s.buf.readBytes 1 2 (by omega)).toNat % 2 ^ 13)) s.readB ∧
    Completes .getPcrBase s (BitVec.ofNat 64 ((s.buf.readBytes 6 5 (by omega)).toNat / 2 ^ 7)) s.readB ∧
    Completes .getPcrExt s (BitVec.ofNat 64 ((s.buf.readBytes 10 2 (by omega)).toNat % 2 ^ 9)) s.readB) ∧
  ∀ (m : Memory) (i n : Nat) (h : i + n ≤ 188) (v : BitVec (8 * n)),
    (m.writeBytes i n h v).readBytes i n h = v

/-- R246, R247: declaring an adaptation field of 7 to 183 bytes and then writing a PCR meets the caller
obligations (b), (c), (e), (f), and (d) for the PCR's bytes 6 to 11, under every configuration, keeps (a) and
(g), and leaves the sync byte and the PID. That (b) asks `L ≤ 183` alone is the model's (log 16). -/
def Obligations.DeclaredFieldThenPcrMeetsCallerObligations : Prop :=
  ∀ (s : State) (len base ext : Operand), 7 ≤ len.toNat → len.toNat ≤ 183 →
    ∃ t u v, exec .setAfLen (s.withDin len) = .next t ∧ exec .setPcrBase (t.withDin base) = .next u ∧
      exec .setPcrExt (u.withDin ext) = .next v ∧
      (s.syncValid → v.syncValid) ∧ v.lengthInRange ∧ v.pcrMeaningful ∧
      (∀ j : Index, 6 ≤ j.val → j.val ≤ 11 → v.insideField j) ∧ v.flagsMeaningful ∧
      v.pcrInsideField ∧ (s.serialised → v.serialised) ∧
      Completes .getPcrBase v (BitVec.ofNat 64 (base.toNat % 2 ^ 33)) v.readB ∧
      Completes .getPcrExt v (BitVec.ofNat 64 (ext.toNat % 512)) v.readB ∧
      ∀ j : Index, j.val ≤ 2 → v.readB j = s.readB j

/-- R141 (92_eei_decisions.md D9): under BOUNDED, SET_AF_LEN changes bytes 3 and 4 and bytes of the
declared field only, so the payload survives it. -/
def Obligations.PayloadSurvivesTheBoundedFill : Prop :=
  ∀ s : State, s.cfg.afFill = .bounded → ∃ t, exec .setAfLen s = .next t ∧
    ∀ j : Index, t.readB j ≠ s.readB j → j = 3 ∨ j = 4 ∨ t.insideField j

/-- R70: every pseudo-instruction, issued to an idle block, does what it names: SET_PCR writes base and
extension, GET_PCR answers them one after the other, FRAME and SET_SYNC leave the packet they name, and CHAIN
performs its lines in order. Issuing into a queue is the model's (log 2), so are one command a step (log 13)
and what a line puts on the ports it does not name (log 14). -/
def Obligations.PseudoInstructionsDoWhatTheyName : Prop :=
  (∀ (s : State) (base ext : Operand), s.pending = [] →
    ∃ t, Host.Core.run Sys2Proof.core 2 (s.issue (Pseudo.setPcr base ext).expand) = .next t ∧
      t.pending = [] ∧ t.readB 5 = s.readB 5 ||| 0x10 ∧
      Completes .getPcrBase t (BitVec.ofNat 64 (base.toNat % 2 ^ 33)) t.readB ∧
      Completes .getPcrExt t (BitVec.ofNat 64 (ext.toNat % 512)) t.readB ∧
      ∀ j : Index, j.val < 5 ∨ 11 < j.val → t.readB j = s.readB j) ∧
  (∀ s : State, s.pending = [] →
    ∃ t u, step (s.issue Pseudo.getPcr.expand) = .next t ∧ step t = .next u ∧ u.pending = [] ∧
      t.status = 0b00#2 ∧ Completes .getPcrBase s t.dout s.readB ∧
      u.status = 0b00#2 ∧ Completes .getPcrExt s u.dout s.readB ∧ u.buf = s.buf) ∧
  (∀ (s : State) (pid cc : Operand), s.pending = [] →
    ∃ t, Host.Core.run Sys2Proof.core 3 (s.issue (Pseudo.frame pid cc).expand) = .next t ∧
      t.pending = [] ∧ Completes .syncOk t 1 t.readB ∧
      Completes .getPid t (BitVec.ofNat 64 (pid.toNat % 8192)) t.readB ∧
      Completes .getCc t (BitVec.ofNat 64 (cc.toNat % 16)) t.readB ∧
      ∀ j : Index, 4 ≤ j.val → t.readB j = 0xFF) ∧
  (∀ s : State, s.pending = [] →
    ∃ t, Host.Core.run Sys2Proof.core 1 (s.issue Pseudo.setSync.expand) = .next t ∧
      t.pending = [] ∧ Completes .syncOk t 1 t.readB ∧
      ∀ j : Index, j ≠ 0 → t.readB j = s.readB j) ∧
  ∀ (s : State) (lines : List AsmLine), s.pending = [] →
    ServesInOrder lines.length (lines.map assemble) [] (s.issue (Pseudo.chain lines).expand)
end

