-- ==== Sys2Proof/Laws/Memory.lean ====
section
/-! SUPPORT. The laws of the buffer: reading after writing, the canonical form kept by every operation,
equal bytes make equal buffers, and the block port lanes. -/

namespace Sys2Proof.Machine

/-! ### Reading one byte -/

theorem Memory.lookupByte_of_not_mem (m : Memory) (a : Nat) (h : ∀ c ∈ m, c.1 ≠ a) :
    m.lookupByte a = unlistedByte a := by
  induction m with
  | nil => rfl
  | cons c rest ih =>
    simp only [List.mem_cons, forall_eq_or_imp] at h
    simp [Memory.lookupByte, h.1, ih h.2]

theorem Memory.lookupByte_eraseByte (m : Memory) (a b : Nat) :
    (m.eraseByte a).lookupByte b = if b = a then unlistedByte a else m.lookupByte b := by
  induction m with
  | nil => by_cases h : b = a <;> simp [Memory.eraseByte, Memory.lookupByte, h]
  | cons c rest ih =>
    simp only [Memory.eraseByte, ne_eq, decide_not] at ih ⊢
    by_cases hc : c.1 = a
    · by_cases hb : b = a
      · subst hb; simp [hc, ih]
      · have : c.1 ≠ b := fun h => hb (h.symm.trans hc)
        simp [hc, ih, hb, Memory.lookupByte, Ne.symm hb]
    · by_cases hb : c.1 = b
      · have : b ≠ a := fun h => hc (hb.trans h)
        simp [Memory.lookupByte, hb, this]
      · simp [hc, Memory.lookupByte, hb, ih]

theorem Memory.lookupByte_placeByte (m : Memory) (a b : Nat) (v : Byte) (h : ∀ c ∈ m, c.1 ≠ a) :
    (m.placeByte a v).lookupByte b = if b = a then v else m.lookupByte b := by
  induction m with
  | nil => simp [Memory.placeByte, Memory.lookupByte, eq_comm]
  | cons c rest ih =>
    simp only [List.mem_cons, forall_eq_or_imp] at h
    by_cases hb : b = a
    · subst hb
      by_cases hlt : b < c.1 <;> simp [Memory.placeByte, Memory.lookupByte, hlt, h.1, ih h.2]
    · by_cases hlt : a < c.1 <;>
        simp [Memory.placeByte, Memory.lookupByte, hlt, ih h.2, hb, Ne.symm hb]

theorem Memory.lookupByte_insertByte (m : Memory) (a b : Nat) (v : Byte) :
    (m.insertByte a v).lookupByte b = if b = a then v else m.lookupByte b := by
  by_cases hv : v = unlistedByte a
  · simp [Memory.insertByte, hv, Memory.lookupByte_eraseByte]
  · have : ∀ c ∈ m.eraseByte a, c.1 ≠ a := by simp [Memory.eraseByte]
    rw [Memory.insertByte, if_neg hv, Memory.lookupByte_placeByte _ _ _ _ this,
      Memory.lookupByte_eraseByte]
    by_cases hb : b = a <;> simp [hb]

/-- Reading after writing one byte: the byte written, and every other byte as before. -/
@[simp] theorem Memory.read_write (m : Memory) (i j : Index) (v : Byte) :
    (m.write i v).read j = if j = i then v else m.read j := by
  simp [Memory.write, Memory.read, Memory.lookupByte_insertByte, Fin.val_inj]

theorem Memory.lookupByte_filterMap (l : List Index) (f : Index → Byte) (j : Index) :
    Memory.lookupByte
      (l.filterMap fun i => if f i = unlistedByte i.val then none else some (i.val, f i)) j.val =
      if j ∈ l then f j else unlistedByte j.val := by
  induction l with
  | nil => rfl
  | cons i rest ih =>
    by_cases hi : f i = unlistedByte i.val
    · by_cases hj : j = i
      · subst hj; simp [hi, ih]
      · simp [hi, ih, hj]
    · by_cases hj : j = i
      · subst hj; simp [hi, Memory.lookupByte]
      · have : ¬ i.val = j.val := fun h => hj (Fin.ext h).symm
        simp [hi, Memory.lookupByte, this, ih, hj]

/-- A whole-buffer image reads as the bytes it was made of. -/
@[simp] theorem Memory.read_ofBytes (f : Index → Byte) (j : Index) :
    (Memory.ofBytes f).read j = f j := by
  simp [Memory.ofBytes, Memory.read, Memory.lookupByte_filterMap]

/-- Reading after a fill. -/
@[simp] theorem Memory.read_fill (m : Memory) (lo hi : Nat) (v : Byte) (j : Index) :
    (m.fill lo hi v).read j = if lo ≤ j.val ∧ j.val ≤ hi then v else m.read j := by
  simp [Memory.fill]

@[simp] theorem nullPacket_read (cfg : Config) (j : Index) :
    (nullPacket cfg).read j = nullByte cfg j := by
  simp [nullPacket]

theorem resetBuffer_of_nullPacket (cfg : Config) (n : Nat) (h : cfg.resetMode = .nullPacket) :
    resetBuffer cfg n = nullPacket cfg := by
  simp [resetBuffer, h]

theorem resetBuffer_read_of_unspecified (cfg : Config) (n : Nat) (j : Index)
    (h : cfg.resetMode = .unspecified) :
    (resetBuffer cfg n).read j = Config.freeByte n j.val := by
  simp [resetBuffer, h]

/-! ### The canonical form -/

theorem Memory.wf_eraseByte (m : Memory) (a : Nat) (h : m.wf) : (m.eraseByte a).wf :=
  ⟨h.1.sublist List.filter_sublist, fun c hc => h.2 c (List.mem_of_mem_filter hc)⟩

theorem Memory.mem_placeByte (m : Memory) (a : Nat) (v : Byte) (c : Host.Cell) :
    c ∈ m.placeByte a v ↔ c = (a, v) ∨ c ∈ m := by
  induction m with
  | nil => simp [Memory.placeByte]
  | cons d rest ih =>
    by_cases hlt : a < d.1
    · simp [Memory.placeByte, hlt]
    · simp only [Memory.placeByte, hlt, if_false, List.mem_cons, ih]
      tauto

theorem Memory.wf_placeByte (m : Memory) (a : Nat) (v : Byte) (h : m.wf) (ha : a < 188)
    (hv : v ≠ unlistedByte a) (hm : ∀ c ∈ m, c.1 ≠ a) : (m.placeByte a v).wf := by
  refine ⟨?_, fun c hc => ?_⟩
  · induction m with
    | nil => simp [Memory.placeByte]
    | cons d rest ih =>
      simp only [List.mem_cons, forall_eq_or_imp] at hm
      have hd := List.pairwise_cons.mp h.1
      by_cases hlt : a < d.1
      · simp only [Memory.placeByte, hlt, if_true, List.pairwise_cons, List.mem_cons]
        refine ⟨fun c hc => ?_, hd⟩
        rcases hc with rfl | hc
        · exact hlt
        · exact hlt.trans (hd.1 c hc)
      · simp only [Memory.placeByte, hlt, if_false, List.pairwise_cons, Memory.mem_placeByte]
        refine ⟨fun c hc => ?_, ih ⟨hd.2, fun c hc => h.2 c (List.mem_cons_of_mem _ hc)⟩ hm.2⟩
        rcases hc with rfl | hc
        · exact lt_of_le_of_ne (Nat.le_of_not_lt hlt) hm.1
        · exact hd.1 c hc
  · rcases (Memory.mem_placeByte m a v c).mp hc with rfl | hc
    · exact ⟨ha, hv⟩
    · exact h.2 c hc

/-- A write keeps the canonical form. -/
theorem Memory.wf_write (m : Memory) (i : Index) (v : Byte) (h : m.wf) : (m.write i v).wf := by
  by_cases hv : v = unlistedByte i.val
  · simpa only [Memory.write, Memory.insertByte, if_pos hv] using Memory.wf_eraseByte m i.val h
  · simpa only [Memory.write, Memory.insertByte, if_neg hv] using
      Memory.wf_placeByte _ _ _ (Memory.wf_eraseByte m i.val h) i.isLt hv
        (by simp [Memory.eraseByte])

theorem Memory.ofBytes_pairwise (f : Index → Byte) (l : List Index) (h : l.Pairwise (· < ·)) :
    (l.filterMap fun i => if f i = unlistedByte i.val then none else some (i.val, f i)).Pairwise
      (fun (c d : Host.Cell) => c.1 < d.1) := by
  refine List.Pairwise.filterMap _ (fun i j hij c hc d hd => ?_) h
  simp only [Option.ite_none_left_eq_some, Option.some.injEq] at hc hd
  rw [← hc.2, ← hd.2]
  exact hij

/-- A whole-buffer image is in canonical form. -/
theorem Memory.wf_ofBytes (f : Index → Byte) : (Memory.ofBytes f).wf := by
  refine ⟨Memory.ofBytes_pairwise f _ (List.pairwise_lt_finRange 188), fun c hc => ?_⟩
  simp only [Memory.ofBytes, List.mem_filterMap, Option.ite_none_left_eq_some,
    Option.some.injEq] at hc
  obtain ⟨i, -, hi, rfl⟩ := hc
  exact ⟨i.isLt, hi⟩

theorem Memory.wf_fill (m : Memory) (lo hi : Nat) (v : Byte) : (m.fill lo hi v).wf :=
  Memory.wf_ofBytes _

theorem nullPacket_wf (cfg : Config) : (nullPacket cfg).wf := Memory.wf_ofBytes _

theorem resetBuffer_wf (cfg : Config) (n : Nat) : (resetBuffer cfg n).wf := by
  cases h : cfg.resetMode <;> simp only [resetBuffer, h] <;> exact Memory.wf_ofBytes _

theorem Memory.wf_tail {c : Host.Cell} {m : Memory} (h : Memory.wf (c :: m)) : m.wf :=
  ⟨(List.pairwise_cons.mp h.1).2, fun d hd => h.2 d (List.mem_cons_of_mem _ hd)⟩

/-- Below its first address a canonical list reads as unlisted. -/
theorem Memory.lookupByte_of_lt {c : Host.Cell} {m : Memory} (h : Memory.wf (c :: m)) (a : Nat)
    (ha : a < c.1) : Memory.lookupByte (c :: m) a = unlistedByte a := by
  refine Memory.lookupByte_of_not_mem _ a fun d hd => ?_
  rcases List.mem_cons.mp hd with rfl | hd
  · exact ha.ne'
  · exact (ha.trans ((List.pairwise_cons.mp h.1).1 d hd)).ne'

theorem Memory.eq_of_lookupByte (m n : Memory) (hm : m.wf) (hn : n.wf)
    (h : ∀ a, m.lookupByte a = n.lookupByte a) : m = n := by
  induction m generalizing n with
  | nil =>
    cases n with
    | nil => rfl
    | cons d rest =>
      have := h d.1
      simp only [Memory.lookupByte, if_true] at this
      exact absurd this.symm (hn.2 d List.mem_cons_self).2
  | cons c mrest ih =>
    cases n with
    | nil =>
      have := h c.1
      simp only [Memory.lookupByte, if_true] at this
      exact absurd this (hm.2 c List.mem_cons_self).2
    | cons d nrest =>
      rcases lt_trichotomy c.1 d.1 with hlt | heq | hgt
      · have := h c.1
        rw [Memory.lookupByte_of_lt hn _ hlt] at this
        simp only [Memory.lookupByte, if_true] at this
        exact absurd this (hm.2 c List.mem_cons_self).2
      · have hc := h c.1
        simp only [Memory.lookupByte, heq, if_true] at hc
        have hcd : c = d := Prod.ext heq hc
        subst hcd
        rw [ih nrest (Memory.wf_tail hm) (Memory.wf_tail hn) fun a => ?_]
        by_cases ha : c.1 = a
        · subst ha
          rw [Memory.lookupByte_of_not_mem mrest, Memory.lookupByte_of_not_mem nrest]
          · exact fun e he => ((List.pairwise_cons.mp hn.1).1 e he).ne'
          · exact fun e he => ((List.pairwise_cons.mp hm.1).1 e he).ne'
        · simpa only [Memory.lookupByte, ha, if_false] using h a
      · have := h d.1
        rw [Memory.lookupByte_of_lt hm _ hgt] at this
        simp only [Memory.lookupByte, if_true] at this
        exact absurd this.symm (hn.2 d List.mem_cons_self).2

/-- Canonical buffers with the same 188 bytes are equal. -/
theorem Memory.eq_of_read (m n : Memory) (hm : m.wf) (hn : n.wf)
    (h : ∀ i, m.read i = n.read i) : m = n := by
  refine Memory.eq_of_lookupByte m n hm hn fun a => ?_
  by_cases ha : a < 188
  · exact h ⟨a, ha⟩
  · rw [Memory.lookupByte_of_not_mem m, Memory.lookupByte_of_not_mem n]
    · exact fun c hc hca => ha (hca ▸ (hn.2 c hc).1)
    · exact fun c hc hca => ha (hca ▸ (hm.2 c hc).1)

/-- A canonical buffer is the image of its bytes. -/
theorem Memory.ofBytes_read (m : Memory) (h : m.wf) : Memory.ofBytes m.read = m :=
  Memory.eq_of_read _ _ (Memory.wf_ofBytes _) h (by simp)

/-! ### Block port lanes -/

theorem getLsbD_foldr_lanes (l : List Byte) (hl : 8 * l.length ≤ 1504) (k : Nat) (hk : k < 1504) :
    (l.foldr (fun b (acc : Block) => (acc <<< 8) ||| b.setWidth 1504) 0).getLsbD k =
      (l.getD (k / 8) 0).getLsbD (k % 8) := by
  induction l generalizing k with
  | nil => simp
  | cons b rest ih =>
    simp only [List.length_cons] at hl
    simp only [List.foldr_cons, BitVec.getLsbD_or, BitVec.getLsbD_shiftLeft, BitVec.getLsbD_setWidth]
    by_cases h8 : k < 8
    · have h1 : k / 8 = 0 := by omega
      have h2 : k % 8 = k := by omega
      simp [h8, hk, h1, h2]
    · have h1 : k / 8 = (k - 8) / 8 + 1 := by omega
      have h2 : k % 8 = (k - 8) % 8 := by omega
      have h3 : b.getLsbD k = false := BitVec.getLsbD_of_ge _ _ (by omega)
      rw [ih (by omega) (k - 8) (by omega), h1, h2]
      simp [h8, hk, h3]

theorem packLanes_getLsbD (f : Index → Byte) (k : Nat) (hk : k < 1504) :
    (packLanes f).getLsbD k = (f ⟨k / 8, by omega⟩).getLsbD (k % 8) := by
  have h := getLsbD_foldr_lanes ((List.finRange 188).map f) (by simp) k hk
  rw [List.foldr_map] at h
  rw [packLanes, h]
  have hk8 : k / 8 < 188 := by omega
  simp [List.getD, hk8]

/-- Lane `i` of a packed block is byte `i` (R44). -/
@[simp] theorem laneOf_packLanes (f : Index → Byte) (i : Index) : laneOf (packLanes f) i = f i := by
  have hi := i.isLt
  apply BitVec.eq_of_getLsbD_eq
  intro k hk
  have h1 : (8 * i.val + k) / 8 = i.val := by omega
  have h2 : (8 * i.val + k) % 8 = k := by omega
  have h := packLanes_getLsbD f (8 * i.val + k) (by omega)
  simp only [h1, h2] at h
  rw [laneOf, BitVec.getLsbD_extractLsb', h]
  simp [hk]

/-- A block is the packing of its lanes. -/
@[simp] theorem packLanes_laneOf (b : Block) : packLanes (laneOf b) = b := by
  apply BitVec.eq_of_getLsbD_eq
  intro k hk
  have h1 : 8 * (k / 8) + k % 8 = k := by omega
  rw [packLanes_getLsbD _ k hk, laneOf, BitVec.getLsbD_extractLsb']
  simp [h1, Nat.mod_lt]

/-! ### Multi-byte access -/

/-- `MemRead` of one byte more appends it at the low end (R42). -/
theorem Memory.readBytes_succ (m : Memory) (i n : Nat) (h : i + (n + 1) ≤ 188) :
    m.readBytes i (n + 1) h =
      (m.readBytes i n (by omega) ++ m.read ⟨i + n, by omega⟩ : BitVec (8 * n + 8)).cast
        (by omega) :=
  rfl

/-- `MemWrite` changes the bytes of its range only. -/
theorem Memory.read_writeBytes_outside (m : Memory) (i n : Nat) (h : i + n ≤ 188)
    (v : BitVec (8 * n)) (j : Index) (hj : j.val < i ∨ i + n ≤ j.val) :
    (m.writeBytes i n h v).read j = m.read j := by
  induction n generalizing m with
  | zero => rfl
  | succ n ih =>
    have hne : j ≠ ⟨i + n, by omega⟩ := by
      intro e
      have := congrArg Fin.val e
      simp only at this
      omega
    rw [Memory.writeBytes, Memory.read_write, if_neg hne, ih _ _ _ (by omega)]

end Sys2Proof.Machine
end

