-- ==== Sys2Proof/Laws/State.lean ====
section
/-! SUPPORT. One lemma per field and update of State, so that no proof unfolds a record update. -/

namespace Sys2Proof.Machine

variable (s : State)

@[simp] theorem State.withBuf_cfg (m : Memory) : (s.withBuf m).cfg = s.cfg := rfl
@[simp] theorem State.withBuf_buf (m : Memory) : (s.withBuf m).buf = m := rfl
@[simp] theorem State.withBuf_pending (m : Memory) : (s.withBuf m).pending = s.pending := rfl
@[simp] theorem State.withBuf_din (m : Memory) : (s.withBuf m).din = s.din := rfl
@[simp] theorem State.withBuf_blkIn (m : Memory) : (s.withBuf m).blkIn = s.blkIn := rfl
@[simp] theorem State.withBuf_status (m : Memory) : (s.withBuf m).status = s.status := rfl
@[simp] theorem State.withBuf_dout (m : Memory) : (s.withBuf m).dout = s.dout := rfl
@[simp] theorem State.withBuf_blkOut (m : Memory) : (s.withBuf m).blkOut = s.blkOut := rfl
@[simp] theorem State.withBuf_draws (m : Memory) : (s.withBuf m).draws = s.draws := rfl

@[simp] theorem State.writeB_cfg (i : Index) (v : Byte) : (s.writeB i v).cfg = s.cfg := rfl
@[simp] theorem State.writeB_buf (i : Index) (v : Byte) :
    (s.writeB i v).buf = s.buf.write i v := rfl
@[simp] theorem State.writeB_pending (i : Index) (v : Byte) :
    (s.writeB i v).pending = s.pending := rfl
@[simp] theorem State.writeB_din (i : Index) (v : Byte) : (s.writeB i v).din = s.din := rfl
@[simp] theorem State.writeB_blkIn (i : Index) (v : Byte) : (s.writeB i v).blkIn = s.blkIn := rfl
@[simp] theorem State.writeB_status (i : Index) (v : Byte) : (s.writeB i v).status = s.status := rfl
@[simp] theorem State.writeB_dout (i : Index) (v : Byte) : (s.writeB i v).dout = s.dout := rfl
@[simp] theorem State.writeB_blkOut (i : Index) (v : Byte) : (s.writeB i v).blkOut = s.blkOut := rfl
@[simp] theorem State.writeB_draws (i : Index) (v : Byte) : (s.writeB i v).draws = s.draws := rfl

@[simp] theorem State.rmw_cfg (i : Index) (m v : Byte) : (s.rmw i m v).cfg = s.cfg := rfl
@[simp] theorem State.rmw_buf (i : Index) (m v : Byte) :
    (s.rmw i m v).buf = s.buf.write i ((s.readB i &&& ~~~m) ||| (v &&& m)) := rfl
@[simp] theorem State.rmw_pending (i : Index) (m v : Byte) :
    (s.rmw i m v).pending = s.pending := rfl
@[simp] theorem State.rmw_din (i : Index) (m v : Byte) : (s.rmw i m v).din = s.din := rfl
@[simp] theorem State.rmw_blkIn (i : Index) (m v : Byte) : (s.rmw i m v).blkIn = s.blkIn := rfl
@[simp] theorem State.rmw_status (i : Index) (m v : Byte) : (s.rmw i m v).status = s.status := rfl
@[simp] theorem State.rmw_dout (i : Index) (m v : Byte) : (s.rmw i m v).dout = s.dout := rfl
@[simp] theorem State.rmw_blkOut (i : Index) (m v : Byte) : (s.rmw i m v).blkOut = s.blkOut := rfl
@[simp] theorem State.rmw_draws (i : Index) (m v : Byte) : (s.rmw i m v).draws = s.draws := rfl

@[simp] theorem State.orB_cfg (i : Index) (m : Byte) : (s.orB i m).cfg = s.cfg := rfl
@[simp] theorem State.orB_buf (i : Index) (m : Byte) :
    (s.orB i m).buf = s.buf.write i (s.readB i ||| m) := rfl
@[simp] theorem State.orB_pending (i : Index) (m : Byte) : (s.orB i m).pending = s.pending := rfl
@[simp] theorem State.orB_din (i : Index) (m : Byte) : (s.orB i m).din = s.din := rfl
@[simp] theorem State.orB_blkIn (i : Index) (m : Byte) : (s.orB i m).blkIn = s.blkIn := rfl
@[simp] theorem State.orB_status (i : Index) (m : Byte) : (s.orB i m).status = s.status := rfl
@[simp] theorem State.orB_dout (i : Index) (m : Byte) : (s.orB i m).dout = s.dout := rfl
@[simp] theorem State.orB_blkOut (i : Index) (m : Byte) : (s.orB i m).blkOut = s.blkOut := rfl
@[simp] theorem State.orB_draws (i : Index) (m : Byte) : (s.orB i m).draws = s.draws := rfl

@[simp] theorem State.andB_cfg (i : Index) (m : Byte) : (s.andB i m).cfg = s.cfg := rfl
@[simp] theorem State.andB_buf (i : Index) (m : Byte) :
    (s.andB i m).buf = s.buf.write i (s.readB i &&& m) := rfl
@[simp] theorem State.andB_pending (i : Index) (m : Byte) : (s.andB i m).pending = s.pending := rfl
@[simp] theorem State.andB_din (i : Index) (m : Byte) : (s.andB i m).din = s.din := rfl
@[simp] theorem State.andB_blkIn (i : Index) (m : Byte) : (s.andB i m).blkIn = s.blkIn := rfl
@[simp] theorem State.andB_status (i : Index) (m : Byte) : (s.andB i m).status = s.status := rfl
@[simp] theorem State.andB_dout (i : Index) (m : Byte) : (s.andB i m).dout = s.dout := rfl
@[simp] theorem State.andB_blkOut (i : Index) (m : Byte) : (s.andB i m).blkOut = s.blkOut := rfl
@[simp] theorem State.andB_draws (i : Index) (m : Byte) : (s.andB i m).draws = s.draws := rfl

@[simp] theorem State.respond_cfg (d : Operand) : (s.respond d).cfg = s.cfg := rfl
@[simp] theorem State.respond_buf (d : Operand) : (s.respond d).buf = s.buf := rfl
@[simp] theorem State.respond_pending (d : Operand) : (s.respond d).pending = s.pending := rfl
@[simp] theorem State.respond_din (d : Operand) : (s.respond d).din = s.din := rfl
@[simp] theorem State.respond_blkIn (d : Operand) : (s.respond d).blkIn = s.blkIn := rfl
@[simp] theorem State.respond_status (d : Operand) : (s.respond d).status = statusOk := rfl
@[simp] theorem State.respond_dout (d : Operand) : (s.respond d).dout = d := rfl
@[simp] theorem State.respond_blkOut (d : Operand) :
    (s.respond d).blkOut = Config.freeBlkOut s.draws := rfl
@[simp] theorem State.respond_draws (d : Operand) : (s.respond d).draws = s.draws + 1 := rfl

@[simp] theorem State.respondBlock_cfg (b : Block) : (s.respondBlock b).cfg = s.cfg := rfl
@[simp] theorem State.respondBlock_buf (b : Block) : (s.respondBlock b).buf = s.buf := rfl
@[simp] theorem State.respondBlock_pending (b : Block) :
    (s.respondBlock b).pending = s.pending := rfl
@[simp] theorem State.respondBlock_din (b : Block) : (s.respondBlock b).din = s.din := rfl
@[simp] theorem State.respondBlock_blkIn (b : Block) : (s.respondBlock b).blkIn = s.blkIn := rfl
@[simp] theorem State.respondBlock_status (b : Block) : (s.respondBlock b).status = statusOk := rfl
@[simp] theorem State.respondBlock_dout (b : Block) : (s.respondBlock b).dout = 0 := rfl
@[simp] theorem State.respondBlock_blkOut (b : Block) : (s.respondBlock b).blkOut = b := rfl
@[simp] theorem State.respondBlock_draws (b : Block) : (s.respondBlock b).draws = s.draws := rfl

@[simp] theorem State.raiseIllegal_cfg : (s.raiseIllegal).cfg = s.cfg := rfl
@[simp] theorem State.raiseIllegal_buf : (s.raiseIllegal).buf = s.buf := rfl
@[simp] theorem State.raiseIllegal_pending : (s.raiseIllegal).pending = s.pending := rfl
@[simp] theorem State.raiseIllegal_din : (s.raiseIllegal).din = s.din := rfl
@[simp] theorem State.raiseIllegal_blkIn : (s.raiseIllegal).blkIn = s.blkIn := rfl
@[simp] theorem State.raiseIllegal_status : (s.raiseIllegal).status = statusIllegal := rfl
@[simp] theorem State.raiseIllegal_dout : (s.raiseIllegal).dout = 0 := rfl
@[simp] theorem State.raiseIllegal_blkOut :
    (s.raiseIllegal).blkOut = Config.freeBlkOut s.draws := rfl
@[simp] theorem State.raiseIllegal_draws : (s.raiseIllegal).draws = s.draws + 1 := rfl

@[simp] theorem State.accept_cfg (t : Transaction) (rest : List HostEvent) :
    (s.accept t rest).cfg = s.cfg := rfl
@[simp] theorem State.accept_buf (t : Transaction) (rest : List HostEvent) :
    (s.accept t rest).buf = s.buf := rfl
@[simp] theorem State.accept_pending (t : Transaction) (rest : List HostEvent) :
    (s.accept t rest).pending = rest := rfl
@[simp] theorem State.accept_din (t : Transaction) (rest : List HostEvent) :
    (s.accept t rest).din = t.din := rfl
@[simp] theorem State.accept_blkIn (t : Transaction) (rest : List HostEvent) :
    (s.accept t rest).blkIn = t.blkIn := rfl
@[simp] theorem State.accept_status (t : Transaction) (rest : List HostEvent) :
    (s.accept t rest).status = s.status := rfl
@[simp] theorem State.accept_dout (t : Transaction) (rest : List HostEvent) :
    (s.accept t rest).dout = s.dout := rfl
@[simp] theorem State.accept_blkOut (t : Transaction) (rest : List HostEvent) :
    (s.accept t rest).blkOut = s.blkOut := rfl
@[simp] theorem State.accept_draws (t : Transaction) (rest : List HostEvent) :
    (s.accept t rest).draws = s.draws := rfl

@[simp] theorem State.takeReset_cfg (rest : List HostEvent) : (s.takeReset rest).cfg = s.cfg := rfl
@[simp] theorem State.takeReset_buf (rest : List HostEvent) :
    (s.takeReset rest).buf = resetBuffer s.cfg s.draws := rfl
@[simp] theorem State.takeReset_pending (rest : List HostEvent) :
    (s.takeReset rest).pending = rest := rfl
@[simp] theorem State.takeReset_din (rest : List HostEvent) : (s.takeReset rest).din = s.din := rfl
@[simp] theorem State.takeReset_blkIn (rest : List HostEvent) :
    (s.takeReset rest).blkIn = s.blkIn := rfl
@[simp] theorem State.takeReset_status (rest : List HostEvent) :
    (s.takeReset rest).status = Config.freeStatus s.draws := rfl
@[simp] theorem State.takeReset_dout (rest : List HostEvent) :
    (s.takeReset rest).dout = Config.freeDout s.draws := rfl
@[simp] theorem State.takeReset_blkOut (rest : List HostEvent) :
    (s.takeReset rest).blkOut = Config.freeBlkOut s.draws := rfl
@[simp] theorem State.takeReset_draws (rest : List HostEvent) :
    (s.takeReset rest).draws = s.draws + 1 := rfl

@[simp] theorem State.withDin_cfg (d : Operand) : (s.withDin d).cfg = s.cfg := rfl
@[simp] theorem State.withDin_buf (d : Operand) : (s.withDin d).buf = s.buf := rfl
@[simp] theorem State.withDin_pending (d : Operand) : (s.withDin d).pending = s.pending := rfl
@[simp] theorem State.withDin_din (d : Operand) : (s.withDin d).din = d := rfl
@[simp] theorem State.withDin_blkIn (d : Operand) : (s.withDin d).blkIn = s.blkIn := rfl
@[simp] theorem State.withDin_status (d : Operand) : (s.withDin d).status = s.status := rfl
@[simp] theorem State.withDin_dout (d : Operand) : (s.withDin d).dout = s.dout := rfl
@[simp] theorem State.withDin_blkOut (d : Operand) : (s.withDin d).blkOut = s.blkOut := rfl
@[simp] theorem State.withDin_draws (d : Operand) : (s.withDin d).draws = s.draws := rfl

@[simp] theorem State.withBlkIn_cfg (b : Block) : (s.withBlkIn b).cfg = s.cfg := rfl
@[simp] theorem State.withBlkIn_buf (b : Block) : (s.withBlkIn b).buf = s.buf := rfl
@[simp] theorem State.withBlkIn_pending (b : Block) : (s.withBlkIn b).pending = s.pending := rfl
@[simp] theorem State.withBlkIn_din (b : Block) : (s.withBlkIn b).din = s.din := rfl
@[simp] theorem State.withBlkIn_blkIn (b : Block) : (s.withBlkIn b).blkIn = b := rfl
@[simp] theorem State.withBlkIn_status (b : Block) : (s.withBlkIn b).status = s.status := rfl
@[simp] theorem State.withBlkIn_dout (b : Block) : (s.withBlkIn b).dout = s.dout := rfl
@[simp] theorem State.withBlkIn_blkOut (b : Block) : (s.withBlkIn b).blkOut = s.blkOut := rfl
@[simp] theorem State.withBlkIn_draws (b : Block) : (s.withBlkIn b).draws = s.draws := rfl

@[simp] theorem State.resetWith_cfg (c : Config) : (State.resetWith c).cfg = c := rfl
@[simp] theorem State.resetWith_buf (c : Config) : (State.resetWith c).buf = resetBuffer c 0 := rfl
@[simp] theorem State.resetWith_pending (c : Config) : (State.resetWith c).pending = [] := rfl
@[simp] theorem State.resetWith_din (c : Config) : (State.resetWith c).din = 0 := rfl
@[simp] theorem State.resetWith_blkIn (c : Config) : (State.resetWith c).blkIn = 0 := rfl
@[simp] theorem State.resetWith_status (c : Config) : (State.resetWith c).status = Config.freeStatus 0 := rfl
@[simp] theorem State.resetWith_dout (c : Config) : (State.resetWith c).dout = Config.freeDout 0 := rfl
@[simp] theorem State.resetWith_blkOut (c : Config) : (State.resetWith c).blkOut = Config.freeBlkOut 0 := rfl
@[simp] theorem State.resetWith_draws (c : Config) : (State.resetWith c).draws = 1 := rfl

end Sys2Proof.Machine
end

