-- ==== Sys2Proof/Laws/Ops.lean ====
section
/-! SUPPORT. One law per shared operation: what a byte reads as after it, that it keeps the invariant,
and that it keeps everything but the buffer and the response. -/

namespace Sys2Proof.Machine

variable (s : State)

/-! ### Bytes -/

@[simp] theorem State.readB_withBuf (m : Memory) (j : Index) : (s.withBuf m).readB j = m.read j := rfl

@[simp] theorem State.readB_writeB (i j : Index) (v : Byte) :
    (s.writeB i v).readB j = if j = i then v else s.readB j :=
  Memory.read_write s.buf i j v

@[simp] theorem State.readB_rmw (i j : Index) (m v : Byte) :
    (s.rmw i m v).readB j =
      if j = i then (s.readB i &&& ~~~m) ||| (v &&& m) else s.readB j :=
  s.readB_writeB i j _

@[simp] theorem State.readB_orB (i j : Index) (m : Byte) :
    (s.orB i m).readB j = if j = i then s.readB i ||| m else s.readB j :=
  s.readB_writeB i j _

@[simp] theorem State.readB_andB (i j : Index) (m : Byte) :
    (s.andB i m).readB j = if j = i then s.readB i &&& m else s.readB j :=
  s.readB_writeB i j _

@[simp] theorem State.readB_respond (d : Operand) (j : Index) : (s.respond d).readB j = s.readB j := rfl

@[simp] theorem State.readB_respondBlock (b : Block) (j : Index) :
    (s.respondBlock b).readB j = s.readB j := rfl

@[simp] theorem State.readB_raiseIllegal (j : Index) : s.raiseIllegal.readB j = s.readB j := rfl

@[simp] theorem State.readB_accept (t : Transaction) (rest : List HostEvent) (j : Index) :
    (s.accept t rest).readB j = s.readB j := rfl

@[simp] theorem State.readB_takeReset (rest : List HostEvent) (j : Index) :
    (s.takeReset rest).readB j = (resetBuffer s.cfg s.draws).read j := rfl

@[simp] theorem State.readB_withDin (d : Operand) (j : Index) : (s.withDin d).readB j = s.readB j := rfl

@[simp] theorem State.readB_withBlkIn (b : Block) (j : Index) :
    (s.withBlkIn b).readB j = s.readB j := rfl

/-- Byte `j` is what the buffer reads there. -/
theorem State.buf_read (j : Index) : s.buf.read j = s.readB j := rfl

/-! ### SET_AF_LEN's two halves -/

/-- R142: bytes 5 to 187 never change; byte 3 only gains the presence bit, byte 4 only becomes 0. -/
theorem State.readB_afLenZero (j : Index) :
    s.afLenZero.readB j =
      if j = 4 ∧ s.cfg.afZeroLen ≠ .noop then 0
      else if j = 3 ∧ s.cfg.afZeroLen = .setAndWrite then s.readB 3 ||| 0x20
      else s.readB j := by
  cases h : s.cfg.afZeroLen <;> by_cases h4 : j = 4 <;> by_cases h3 : j = 3 <;>
    simp [State.afLenZero, h, h3, h4]

/-- R140, R141. -/
theorem State.readB_afLenDeclare (len : Byte) (j : Index) :
    (s.afLenDeclare len).readB j =
      if 2 ≤ len.toNat ∧ 6 ≤ j.val ∧ j.val ≤ fillEnd s.cfg len then 0xFF
      else if j = 5 then 0
      else if j = 4 then len
      else if j = 3 then s.readB 3 ||| 0x20
      else s.readB j := by
  by_cases h2 : 2 ≤ len.toNat <;> simp [State.afLenDeclare, h2, State.buf_read]

/-- The fill never leaves the buffer (R141). -/
theorem fillEnd_le (cfg : Config) (len : Byte) : fillEnd cfg len ≤ 187 := by
  cases h : cfg.afFill <;> simp [fillEnd, h]

/-! ### The invariant -/

theorem State.inv_withBuf (m : Memory) (h : s.Inv) (hm : m.wf) : (s.withBuf m).Inv := ⟨hm, h.2⟩

theorem State.inv_writeB (i : Index) (v : Byte) (h : s.Inv) : (s.writeB i v).Inv :=
  s.inv_withBuf _ h (Memory.wf_write _ _ _ h.1)

theorem State.inv_rmw (i : Index) (m v : Byte) (h : s.Inv) : (s.rmw i m v).Inv :=
  s.inv_writeB _ _ h

theorem State.inv_orB (i : Index) (m : Byte) (h : s.Inv) : (s.orB i m).Inv := s.inv_writeB _ _ h

theorem State.inv_andB (i : Index) (m : Byte) (h : s.Inv) : (s.andB i m).Inv := s.inv_writeB _ _ h

theorem State.inv_respond (d : Operand) (h : s.Inv) : (s.respond d).Inv := h

theorem State.inv_respondBlock (b : Block) (h : s.Inv) : (s.respondBlock b).Inv := h

theorem State.inv_raiseIllegal (h : s.Inv) : s.raiseIllegal.Inv := h

theorem State.inv_accept (t : Transaction) (rest : List HostEvent) (h : s.Inv) :
    (s.accept t rest).Inv := h

theorem State.inv_takeReset (rest : List HostEvent) (h : s.Inv) : (s.takeReset rest).Inv :=
  ⟨resetBuffer_wf _ _, h.2⟩

theorem State.inv_afLenZero (h : s.Inv) : s.afLenZero.Inv := by
  cases hz : s.cfg.afZeroLen <;> simp only [State.afLenZero, hz]
  · exact h
  · exact s.inv_writeB _ _ h
  · exact (s.orB 3 0x20).inv_writeB _ _ (s.inv_orB _ _ h)

theorem State.inv_afLenDeclare (len : Byte) (h : s.Inv) : (s.afLenDeclare len).Inv := by
  have h' : (((s.orB 3 0x20).writeB 4 len).writeB 5 0x00).Inv :=
    State.inv_writeB _ _ _ (State.inv_writeB _ _ _ (s.inv_orB _ _ h))
  by_cases h2 : 2 ≤ len.toNat
  · simpa only [State.afLenDeclare, h2, if_true] using
      State.inv_withBuf _ _ h' (Memory.wf_fill _ _ _ _)
  · simpa only [State.afLenDeclare, h2, if_false] using h'

/-- The buffer after reset is in canonical form. -/
theorem State.resetWith_buf_wf (cfg : Config) : (State.resetWith cfg).buf.wf := by
  rw [State.resetWith_buf]
  exact resetBuffer_wf cfg 0

theorem State.reset_buf_wf : State.reset.buf.wf := State.resetWith_buf_wf Config.reference

/-! ### What an operation keeps -/

theorem State.keeps_refl : s.Keeps s := ⟨rfl, rfl, rfl, rfl⟩

variable {s} in
theorem State.Keeps.trans {t u : State} (h : s.Keeps t) (h' : t.Keeps u) : s.Keeps u :=
  ⟨h'.1.trans h.1, h'.2.1.trans h.2.1, h'.2.2.1.trans h.2.2.1, h'.2.2.2.trans h.2.2.2⟩

@[simp] theorem State.keeps_withBuf (m : Memory) : s.Keeps (s.withBuf m) := ⟨rfl, rfl, rfl, rfl⟩

@[simp] theorem State.keeps_writeB (i : Index) (v : Byte) : s.Keeps (s.writeB i v) :=
  s.keeps_withBuf _

@[simp] theorem State.keeps_respond (d : Operand) : s.Keeps (s.respond d) := ⟨rfl, rfl, rfl, rfl⟩

@[simp] theorem State.keeps_respondBlock (b : Block) : s.Keeps (s.respondBlock b) :=
  ⟨rfl, rfl, rfl, rfl⟩

@[simp] theorem State.keeps_raiseIllegal : s.Keeps s.raiseIllegal := ⟨rfl, rfl, rfl, rfl⟩

theorem State.keeps_afLenZero : s.Keeps s.afLenZero := by
  cases h : s.cfg.afZeroLen <;> simp only [State.afLenZero, h] <;> exact ⟨rfl, rfl, rfl, rfl⟩

theorem State.keeps_afLenDeclare (len : Byte) : s.Keeps (s.afLenDeclare len) := by
  by_cases h : 2 ≤ len.toNat <;> simp only [State.afLenDeclare, h, if_true, if_false] <;>
    exact ⟨rfl, rfl, rfl, rfl⟩

/-! ### The index of format X -/

theorem indexOperand_of_lt (idx : BitVec 8) (h : idx.toNat < 188) :
    indexOperand idx = some ⟨idx.toNat, h⟩ := by
  simp [indexOperand, h]

theorem indexOperand_of_ge (idx : BitVec 8) (h : 188 ≤ idx.toNat) : indexOperand idx = none := by
  simp [indexOperand, h]

end Sys2Proof.Machine
end

