-- ==== Sys2Proof/Laws/PerInstr.lean ====
section
/-! SUPPORT. Facts about every command as syntax, one lemma per constructor: the encoded word has the
command's opcode, `RSV = 00` and the command's index in the fields of 30_encoding.md R60. -/

namespace Sys2Proof.Laws.WordShape

/-- The fields of the word that stands for `i` (R60, R61, R62). -/
def Statement (i : Instr) : Prop :=
  opField (encode i) = opcodeOf i ∧ rsvField (encode i) = 0 ∧ idxField (encode i) = indexOf i

/-- The fields of the word are what it was built from. -/
theorem of_fields (i : Instr) : Statement i := by
  refine ⟨?_, ?_, ?_⟩ <;> apply BitVec.eq_of_getLsbD_eq <;> intro k hk
  · simp [opField, encode, hk, show k < 16 by omega, show k < 8 by omega]
  · simp [rsvField, encode, hk, show 6 + k < 16 by omega, show 6 + k < 8 by omega]
  · simp [idxField, encode, hk, show 8 + k < 16 by omega,
      BitVec.getLsbD_of_ge (opcodeOf i) (8 + k) (by omega)]

theorem nullPkt : Statement .nullPkt := of_fields _

theorem blkLoad : Statement .blkLoad := of_fields _

theorem blkRead : Statement .blkRead := of_fields _

theorem byteRd (idx : BitVec 8) : Statement (.byteRd idx) := of_fields _

theorem byteWr (idx : BitVec 8) : Statement (.byteWr idx) := of_fields _

theorem syncOk : Statement .syncOk := of_fields _

theorem setTei : Statement .setTei := of_fields _

theorem getTei : Statement .getTei := of_fields _

theorem setPusi : Statement .setPusi := of_fields _

theorem getPusi : Statement .getPusi := of_fields _

theorem setTp : Statement .setTp := of_fields _

theorem getTp : Statement .getTp := of_fields _

theorem setPid : Statement .setPid := of_fields _

theorem getPid : Statement .getPid := of_fields _

theorem setSc : Statement .setSc := of_fields _

theorem getSc : Statement .getSc := of_fields _

theorem getAfc : Statement .getAfc := of_fields _

theorem setPayload : Statement .setPayload := of_fields _

theorem getPayload : Statement .getPayload := of_fields _

theorem setCc : Statement .setCc := of_fields _

theorem getCc : Statement .getCc := of_fields _

theorem ccReset : Statement .ccReset := of_fields _

theorem setAfLen : Statement .setAfLen := of_fields _

theorem getAfLen : Statement .getAfLen := of_fields _

theorem setDisc : Statement .setDisc := of_fields _

theorem clrDisc : Statement .clrDisc := of_fields _

theorem getDisc : Statement .getDisc := of_fields _

theorem setRai : Statement .setRai := of_fields _

theorem getRai : Statement .getRai := of_fields _

theorem setEspi : Statement .setEspi := of_fields _

theorem getEspi : Statement .getEspi := of_fields _

theorem setPcrf : Statement .setPcrf := of_fields _

theorem getPcrf : Statement .getPcrf := of_fields _

theorem setPcrBase : Statement .setPcrBase := of_fields _

theorem getPcrBase : Statement .getPcrBase := of_fields _

theorem setPcrExt : Statement .setPcrExt := of_fields _

theorem getPcrExt : Statement .getPcrExt := of_fields _

end Sys2Proof.Laws.WordShape
end

