-- ==== Sys2Proof/Laws/Step.lean ====
section
/-! SUPPORT. Everything one step can do, said once. -/

namespace Sys2Proof.Machine

theorem step_of_idle (s : State) (h : s.pending = []) : step s = .next s := by
  simp [step, h]

theorem step_of_reset (s : State) (c : Option Transaction) (rest : List HostEvent)
    (h : s.pending = .reset c :: rest) : step s = .next (s.takeReset rest) := by
  simp [step, h]

theorem step_of_legal (s : State) (t : Transaction) (rest : List HostEvent) (i : Instr)
    (h : s.pending = .command t :: rest) (hd : decode t.cmd = .legal i) :
    step s = exec i (s.accept t rest) := by
  simp [step, h, hd]

theorem step_of_illegal (s : State) (t : Transaction) (rest : List HostEvent) (c : IllegalCause)
    (h : s.pending = .command t :: rest) (hd : decode t.cmd = .illegal c) :
    step s = .next (s.accept t rest).raiseIllegal := by
  simp [step, h, hd]

/-- A next state comes from waiting, from a reset, from a legal command or from an illegal word. -/
theorem step_cases {s u : State} (h : step s = .next u) :
    (s.pending = [] ∧ u = s) ∨
    (∃ c rest, s.pending = .reset c :: rest ∧ u = s.takeReset rest) ∨
    (∃ t rest i, s.pending = .command t :: rest ∧ decode t.cmd = .legal i ∧
      exec i (s.accept t rest) = .next u) ∨
    (∃ t rest c, s.pending = .command t :: rest ∧ decode t.cmd = .illegal c ∧
      u = (s.accept t rest).raiseIllegal) := by
  match hp : s.pending with
  | [] =>
    rw [step_of_idle s hp] at h
    exact .inl ⟨rfl, (Host.Outcome.next.inj h).symm⟩
  | .reset c :: rest =>
    rw [step_of_reset s c rest hp] at h
    exact .inr (.inl ⟨c, rest, rfl, (Host.Outcome.next.inj h).symm⟩)
  | .collide a b :: rest => simp [step, hp] at h
  | .command t :: rest =>
    match hd : decode t.cmd with
    | .legal i =>
      rw [step_of_legal s t rest i hp hd] at h
      exact .inr (.inr (.inl ⟨t, rest, i, rfl, hd, h⟩))
    | .illegal c =>
      rw [step_of_illegal s t rest c hp hd] at h
      exact .inr (.inr (.inr ⟨t, rest, c, rfl, hd, (Host.Outcome.next.inj h).symm⟩))

/-! ### Performing transactions in order -/

@[simp] theorem performInOrder_nil (s : State) : performInOrder [] s = .next s := rfl

theorem performInOrder_legal (t : Transaction) (ts : List Transaction) (s u : State) (i : Instr)
    (hd : decode t.cmd = .legal i)
    (h : exec i ((s.withDin t.din).withBlkIn t.blkIn) = .next u) :
    performInOrder (t :: ts) s = performInOrder ts u := by
  simp [performInOrder, hd, h]

theorem performInOrder_illegal (t : Transaction) (ts : List Transaction) (s : State) (c : IllegalCause)
    (hd : decode t.cmd = .illegal c) :
    performInOrder (t :: ts) s = performInOrder ts { s with status := 0b01#2, dout := 0 } := by
  simp [performInOrder, hd]

/-- A run whose first step answers `u` goes on from `u`. -/
theorem run_succ_of_step (n : Nat) (s u : State) (h : step s = .next u) :
    Host.Core.run Sys2Proof.core (n + 1) s = Host.Core.run Sys2Proof.core n u := by
  simp [Host.Core.run, Sys2Proof.core, h]

end Sys2Proof.Machine
end

