-- ==== Sys2Proof/Tests/Slice0.lean ====
section
/-! SUPPORT. Tests of one step each, expected values from spec/95_test_vectors.md (table named at each
group) or from the rule named there, and a witness for the hypotheses of every claim that has some. -/

-- One theorem at a time: each thread of a parallel check takes a large stack.
set_option Elab.async false

namespace Sys2Proof.Tests

open Sys2Proof Sys2Proof.Machine

/-! ### Helpers -/

/-- The state `null, Bk = vv` of 95_test_vectors.md: the reset state with the listed bytes replaced. -/
def packet (l : List (Index × Byte)) : State := l.foldl (fun s c => s.writeB c.1 c.2) State.reset

/-- The state `zeros, Bk = vv` of 95_test_vectors.md, in configuration `cfg`. -/
def zeros (cfg : Config) (l : List (Index × Byte)) : State :=
  l.foldl (fun s c => s.writeB c.1 c.2)
    { State.reset with cfg := cfg, buf := Memory.ofBytes fun _ => 0 }

/-- The reset state with another configuration. -/
def configured (cfg : Config) : State := { State.reset with cfg := cfg }

/-- The reset state with these inputs pending. -/
def presented (es : List HostEvent) : State := { State.reset with pending := es }

/-- A transaction without operands. -/
def bare (w : Word) : Transaction := { cmd := w, din := 0, blkIn := 0 }

/-- What a state shows: its STATUS, DOUT and the listed bytes. -/
def looks (t : State) (status : StatusCode) (dout : Operand) (bytes : List (Index × Byte)) : Bool :=
  t.status == status && t.dout == dout && bytes.all fun c => t.readB c.1 == c.2

/-- One command with operand `din`: STATUS = OK, this DOUT and these bytes after it. -/
def gives (i : Instr) (s : State) (din dout : Operand) (bytes : List (Index × Byte)) : Bool :=
  match exec i (s.withDin din) with
  | .next t => looks t 0b00 dout bytes
  | .fault _ => false
  | .refused _ => false

/-- One step on a presented word: this STATUS, DOUT and these bytes after it, and nothing pending. -/
def wordGives (w : Word) (din : Operand) (s : State) (status : StatusCode) (dout : Operand)
    (bytes : List (Index × Byte)) : Bool :=
  match step { s with pending := [.command { cmd := w, din := din, blkIn := 0 }] } with
  | .next t => looks t status dout bytes && t.pending.isEmpty
  | .fault _ => false
  | .refused _ => false

/-! ### Well-formedness refuses what R62 and R66 (d) refuse -/

theorem test_wf_refuses_byteRd_188 : Instr.wf (.byteRd 188) = false := by decide
theorem test_wf_refuses_byteWr_255 : Instr.wf (.byteWr 255) = false := by decide
theorem test_wf_accepts_index_187 : Instr.wf (.byteRd 187) = true ∧ Instr.wf (.byteWr 187) = true := by
  decide
theorem test_config_refuses_nullB1_1E : ¬ (Config.wf { Config.reference with nullB1 := 0x1E }) := by
  decide
theorem test_config_refuses_nullB3_20 : ¬ (Config.wf { Config.reference with nullB3 := 0x20 }) := by
  decide
theorem test_memory_refuses_listed_default : ¬ (Memory.wf [(1, 0x1F)]) := by decide
theorem test_memory_refuses_falling_order : ¬ (Memory.wf [(2, 0x00), (1, 0x00)]) := by decide
theorem test_memory_refuses_index_188 : ¬ (Memory.wf [(188, 0x00)]) := by decide

/-! ### Decoding, one word per row of R65, written from R60: IDX, RSV, OP -/

theorem test_decode_packet_view :
    decode 0b0000000000000001#16 = .legal .nullPkt ∧
    decode 0b0000000000000010#16 = .legal .blkLoad ∧
    decode 0b0000000000000011#16 = .legal .blkRead ∧
    decode 0b1011101100000100#16 = .legal (.byteRd 187) ∧
    decode 0b1011101100000101#16 = .legal (.byteWr 187) := by
  decide

theorem test_decode_header :
    decode 0b0000000000000110#16 = .legal .syncOk ∧
    decode 0b0000000000001000#16 = .legal .setTei ∧
    decode 0b0000000000001001#16 = .legal .getTei ∧
    decode 0b0000000000001010#16 = .legal .setPusi ∧
    decode 0b0000000000001011#16 = .legal .getPusi ∧
    decode 0b0000000000001100#16 = .legal .setTp ∧
    decode 0b0000000000001101#16 = .legal .getTp ∧
    decode 0b0000000000001110#16 = .legal .setPid ∧
    decode 0b0000000000001111#16 = .legal .getPid ∧
    decode 0b0000000000010000#16 = .legal .setSc ∧
    decode 0b0000000000010001#16 = .legal .getSc ∧
    decode 0b0000000000010010#16 = .legal .getAfc ∧
    decode 0b0000000000010011#16 = .legal .setPayload ∧
    decode 0b0000000000010100#16 = .legal .getPayload ∧
    decode 0b0000000000010101#16 = .legal .setCc ∧
    decode 0b0000000000010110#16 = .legal .getCc ∧
    decode 0b0000000000010111#16 = .legal .ccReset := by
  decide

theorem test_decode_adaptation :
    decode 0b0000000000011000#16 = .legal .setAfLen ∧
    decode 0b0000000000011001#16 = .legal .getAfLen ∧
    decode 0b0000000000011010#16 = .legal .setDisc ∧
    decode 0b0000000000011011#16 = .legal .clrDisc ∧
    decode 0b0000000000011100#16 = .legal .getDisc ∧
    decode 0b0000000000011101#16 = .legal .setRai ∧
    decode 0b0000000000011110#16 = .legal .getRai ∧
    decode 0b0000000000011111#16 = .legal .setEspi ∧
    decode 0b0000000000100000#16 = .legal .getEspi ∧
    decode 0b0000000000100001#16 = .legal .setPcrf ∧
    decode 0b0000000000100010#16 = .legal .getPcrf := by
  decide

theorem test_decode_pcr :
    decode 0b0000000000100100#16 = .legal .setPcrBase ∧
    decode 0b0000000000100101#16 = .legal .getPcrBase ∧
    decode 0b0000000000100110#16 = .legal .setPcrExt ∧
    decode 0b0000000000100111#16 = .legal .getPcrExt := by
  decide

/-- Table L2.5: every illegal word of the table is refused, by the cause it is listed for. -/
theorem test_decode_illegal_words :
    decode 0x0000#16 = .illegal .unassignedOpcode ∧ decode 0x0007#16 = .illegal .unassignedOpcode ∧
    decode 0x0023#16 = .illegal .unassignedOpcode ∧ decode 0x0028#16 = .illegal .unassignedOpcode ∧
    decode 0x003F#16 = .illegal .unassignedOpcode ∧ decode 0x0048#16 = .illegal .reservedBits ∧
    decode 0x00C8#16 = .illegal .reservedBits ∧ decode 0x010E#16 = .illegal .indexOnFormatN ∧
    decode 0xFF01#16 = .illegal .indexOnFormatN ∧ decode 0xBC04#16 = .illegal .indexOutOfRange ∧
    decode 0xFF05#16 = .illegal .indexOutOfRange ∧ decode 0x0344#16 = .illegal .reservedBits := by
  decide

/-- R60: the word of BYTE_WR 12 is 0x0C05 and of SET_PID 0x000E. -/
theorem test_encode_words : encode (.byteWr 12) = 0x0C05 ∧ encode .setPid = 0x000E := by decide

theorem test_decodeTableWord_short_row : decodeTableWord 8 0x04 = some (.byteRd 0) := by decide

/-! ### Table L2.1, header fields -/

theorem test_syncOk_null :
    gives .syncOk State.reset 0 1
      [(0, 0x47)] = true := by decide
theorem test_syncOk_46 :
    gives .syncOk (packet [(0, 0x46)]) 0 0
      [(0, 0x46)] = true := by decide
theorem test_setTei_ignores_din :
    gives .setTei State.reset 0xFFFF 0
      [(1, 0x9F), (2, 0xFF)] = true := by decide
theorem test_setTei_idempotent :
    gives .setTei (packet [(1, 0x9F)]) 0 0
      [(1, 0x9F)] = true := by decide
theorem test_getTei_set :
    gives .getTei (packet [(1, 0x9F)]) 0 1
      [(1, 0x9F)] = true := by decide
theorem test_getTei_clear :
    gives .getTei (packet [(1, 0x7F)]) 0 0
      [(1, 0x7F)] = true := by decide
theorem test_setPusi :
    gives .setPusi (packet [(1, 0x01), (2, 0x00)]) 0 0
      [(1, 0x41), (2, 0x00)] = true := by decide
theorem test_getPusi_set :
    gives .getPusi (packet [(1, 0x41)]) 0 1
      [(1, 0x41)] = true := by decide
theorem test_getPusi_clear :
    gives .getPusi (packet [(1, 0xBF)]) 0 0
      [(1, 0xBF)] = true := by decide
theorem test_setTp :
    gives .setTp State.reset 0 0
      [(1, 0x3F)] = true := by decide
theorem test_getTp_set :
    gives .getTp (packet [(1, 0x3F)]) 0 1
      [(1, 0x3F)] = true := by decide
theorem test_getTp_clear :
    gives .getTp (packet [(1, 0xDF)]) 0 0
      [(1, 0xDF)] = true := by decide
theorem test_setPid_keeps_flags :
    gives .setPid (packet [(1, 0xE0), (2, 0x00)]) 0x1ABC 0
      [(1, 0xFA), (2, 0xBC)] = true := by decide
theorem test_setPid_truncates :
    gives .setPid State.reset 0x2001 0
      [(1, 0x00), (2, 0x01)] = true := by decide
theorem test_getPid :
    gives .getPid (packet [(1, 0xFA), (2, 0xBC)]) 0 0x1ABC
      [(1, 0xFA)] = true := by decide
theorem test_getPid_zero :
    gives .getPid (packet [(1, 0xE0), (2, 0x00)]) 0 0
      [(1, 0xE0)] = true := by decide
theorem test_setSc_clears_old :
    gives .setSc (packet [(3, 0xC5)]) 1 0
      [(3, 0x45)] = true := by decide
theorem test_setSc_truncates :
    gives .setSc (packet [(3, 0x00)]) 7 0
      [(3, 0xC0)] = true := by decide
theorem test_getSc :
    gives .getSc (packet [(3, 0x85)]) 0 2
      [(3, 0x85)] = true := by decide
theorem test_getSc_zero :
    gives .getSc (packet [(3, 0x3F)]) 0 0
      [(3, 0x3F)] = true := by decide
theorem test_getAfc_set :
    gives .getAfc (packet [(3, 0x20)]) 0 1
      [(3, 0x20)] = true := by decide
theorem test_getAfc_clear :
    gives .getAfc (packet [(3, 0xDF)]) 0 0
      [(3, 0xDF)] = true := by decide
theorem test_setPayload :
    gives .setPayload (packet [(3, 0x85)]) 0 0
      [(3, 0x95)] = true := by decide
theorem test_setPayload_above_cc :
    gives .setPayload (packet [(3, 0x0F)]) 0 0
      [(3, 0x1F)] = true := by decide
theorem test_getPayload_set :
    gives .getPayload (packet [(3, 0x95)]) 0 1
      [(3, 0x95)] = true := by decide
theorem test_getPayload_clear :
    gives .getPayload (packet [(3, 0xEF)]) 0 0
      [(3, 0xEF)] = true := by decide
theorem test_setCc_sixteen_wraps :
    gives .setCc (packet [(3, 0xAF)]) 0x10 0
      [(3, 0xA0)] = true := by decide
theorem test_setCc_max :
    gives .setCc (packet [(3, 0xF0)]) 0xF 0
      [(3, 0xFF)] = true := by decide
theorem test_getCc :
    gives .getCc (packet [(3, 0xF5)]) 0 5
      [(3, 0xF5)] = true := by decide
theorem test_ccReset :
    gives .ccReset (packet [(3, 0xF5)]) 0 0
      [(3, 0xF0)] = true := by decide

/-! ### Table L2.2, adaptation field -/

theorem test_setAfLen_two_to_end :
    gives .setAfLen (zeros Config.reference [(0, 0x47), (3, 0xD5)]) 2 0
      [(3, 0xF5), (4, 0x02), (5, 0x00), (6, 0xFF), (7, 0xFF), (187, 0xFF)] = true := by decide
/-- Rows under other parameters: BOUNDED with L = 0x107 truncated to 7, and WRITE_LEN with L = 0. -/
theorem test_setAfLen_parameters :
    gives .setAfLen (zeros { Config.reference with afFill := .bounded } [(0, 0x47), (3, 0xD5)]) 0x107 0
      [(3, 0xF5), (4, 0x07), (5, 0x00), (6, 0xFF), (11, 0xFF), (12, 0x00)] = true ∧
    gives .setAfLen (configured { Config.reference with afZeroLen := .writeLen }) 0 0
      [(3, 0x00), (4, 0x00), (5, 0xFF)] = true := by decide +kernel
theorem test_getAfLen_null :
    gives .getAfLen State.reset 0 0xFF
      [(4, 0xFF)] = true := by decide
theorem test_setDisc :
    gives .setDisc (packet [(5, 0x00)]) 0 0
      [(5, 0x80)] = true := by decide
theorem test_clrDisc :
    gives .clrDisc State.reset 0 0
      [(5, 0x7F)] = true := by decide
theorem test_clrDisc_idempotent :
    gives .clrDisc (packet [(5, 0x7F)]) 0 0
      [(5, 0x7F)] = true := by decide
theorem test_getDisc_null :
    gives .getDisc State.reset 0 1
      [(5, 0xFF)] = true := by decide
theorem test_getDisc_clear :
    gives .getDisc (packet [(5, 0x7F)]) 0 0
      [(5, 0x7F)] = true := by decide
theorem test_setRai :
    gives .setRai (packet [(5, 0x80)]) 0 0
      [(5, 0xC0)] = true := by decide
theorem test_getRai_set :
    gives .getRai (packet [(5, 0xC0)]) 0 1
      [(5, 0xC0)] = true := by decide
theorem test_getRai_clear :
    gives .getRai (packet [(5, 0xBF)]) 0 0
      [(5, 0xBF)] = true := by decide
theorem test_setEspi :
    gives .setEspi (packet [(5, 0x00)]) 0 0
      [(5, 0x20)] = true := by decide
theorem test_getEspi_set :
    gives .getEspi (packet [(5, 0x20)]) 0 1
      [(5, 0x20)] = true := by decide
theorem test_getEspi_clear :
    gives .getEspi (packet [(5, 0xDF)]) 0 0
      [(5, 0xDF)] = true := by decide
theorem test_setPcrf :
    gives .setPcrf (packet [(5, 0x0F)]) 0 0
      [(5, 0x1F), (6, 0xFF)] = true := by decide
theorem test_getPcrf_set :
    gives .getPcrf (packet [(5, 0x10)]) 0 1
      [(5, 0x10)] = true := by decide
theorem test_getPcrf_clear :
    gives .getPcrf (packet [(5, 0xEF)]) 0 0
      [(5, 0xEF)] = true := by decide

/-! ### Table L2.3, PCR -/

theorem test_setPcrBase :
    gives .setPcrBase (packet [(5, 0x00)]) 0x123456789 0
      [(5, 0x10), (6, 0x91), (7, 0xA2), (8, 0xB3), (9, 0xC4), (10, 0xFF), (11, 0xFF)] = true := by decide
theorem test_setPcrBase_restores_reserved :
    gives .setPcrBase (packet [(10, 0x01)]) 0 0
      [(6, 0x00), (9, 0x00), (10, 0x7F)] = true := by decide
theorem test_getPcrBase :
    gives .getPcrBase (packet [(6, 0x91), (7, 0xA2), (8, 0xB3), (9, 0xC4), (10, 0xFF)]) 0 0x123456789
      [(10, 0xFF)] = true := by decide
theorem test_getPcrBase_ignores_reserved :
    gives .getPcrBase (packet [(6, 0), (7, 0), (8, 0), (9, 0), (10, 0x7F)]) 0 0
      [(10, 0x7F)] = true := by decide
theorem test_setPcrExt_over_clear_bit :
    gives .setPcrExt (packet [(10, 0x7E), (11, 0x00)]) 0x1A5 0
      [(10, 0x7F), (11, 0xA5)] = true := by decide
theorem test_setPcrExt_clears_bit_eight :
    gives .setPcrExt State.reset 0x200 0
      [(5, 0xFF), (10, 0xFE), (11, 0x00)] = true := by decide
theorem test_getPcrExt_bit_eight :
    gives .getPcrExt (packet [(10, 0xFF), (11, 0xA5)]) 0 0x1A5
      [(10, 0xFF)] = true := by decide
theorem test_getPcrExt_low :
    gives .getPcrExt (packet [(10, 0xFE), (11, 0xA5)]) 0 0xA5
      [(10, 0xFE)] = true := by decide

/-! ### Table L2.4, packet view -/

theorem test_nullPkt_parameters :
    gives .nullPkt (zeros { Config.reference with nullB1 := 0xFF, nullB3 := 0xD0 } []) 0 0
      [(0, 0x47), (1, 0xFF), (2, 0xFF), (3, 0xD0), (4, 0xFF), (187, 0xFF)] = true := by decide
theorem test_byteRd_187 :
    gives (.byteRd 187) State.reset 0 0xFF
      [(187, 0xFF)] = true := by decide
theorem test_byteWr_12 :
    gives (.byteWr 12) State.reset 0x5A 0
      [(12, 0x5A), (11, 0xFF), (13, 0xFF)] = true := by decide
theorem test_byteWr_truncates :
    gives (.byteWr 0) State.reset 0x1246 0
      [(0, 0x46)] = true := by decide

theorem test_blkLoad_lanes :
    gives .blkLoad (State.reset.withBlkIn (packLanes fun i => BitVec.ofNat 8 (37 * i.val + 11))) 0 0
      [(0, 0x0B), (1, 0x30), (2, 0x55), (3, 0x7A), (187, 0x12)] = true := by decide +kernel
/-- The example of R193 after NULL_PKT. -/
theorem test_blkRead_null :
    (match exec .blkRead State.reset with
      | .next t => t.blkOut.extractLsb' 0 8 == 0x47 && t.blkOut.extractLsb' 8 8 == 0x1F &&
          t.blkOut.extractLsb' 1496 8 == 0xFF && t.dout == 0
      | _ => false) = true := by decide +kernel

/-! ### Illegal words (table L2.5, on null with DIN = 0x1234) and reset -/

theorem test_index_188_illegal :
    wordGives 0xBC04 0x1234 State.reset 0b01 0 [(0, 0x47)] = true ∧
      wordGives 0xBC05 0 State.reset 0b01 0 [(187, 0xFF)] = true := by decide
theorem test_reserved_bits_illegal : wordGives 0x0048 0x1234 State.reset 0b01 0 [(1, 0x1F)] = true := by
  decide
/-- R31: the reference reset buffer is the null packet, with nothing listed. -/
theorem test_reset_lists_nothing : State.reset.buf = [] := by decide +kernel
/-- R240 under other null-packet parameters. -/
theorem test_reset_parameters :
    resetBuffer { Config.reference with nullB1 := 0xFF, nullB3 := 0xD0 } 0 = [(1, 0xFF), (3, 0xD0)] := by
  decide +kernel
/-- R70 and R69: SET_SYNC is the word 0x0005 with DIN = 0x47. -/
theorem test_setSync_expands :
    (Pseudo.setSync.expand.map assemble).map (fun t => (t.cmd, t.din)) = [(0x0005, 0x47)] := by decide

/-! ### Witnesses: the hypotheses of the claims can be met, at their boundary values -/

theorem witness_DecodeOfEncodeIsTheInstruction : Instr.wf (.byteWr 187) = true := by decide
theorem witness_LegalWordReencodesToItself : decode 0xBB05#16 = .legal (.byteWr 187) := by decide
/-- Each condition of R66 at its boundary, and the legal words beside it. -/
theorem witness_WordsAreIllegalExactlyAsRule66Says :
    ([0x0000, 0x0007, 0x0023, 0x0028, 0x003F, 0x0041, 0x00C1, 0x0101, 0xBC04, 0xBC05].all
      fun w => decide (IllegalWord w)) = true ∧
    ([0x0001, 0x0006, 0x0008, 0x0022, 0x0024, 0x0027, 0xBB04, 0xBB05].all
      fun w => decide (¬ IllegalWord w)) = true ∧
    (presented [.command (bare 0xBC04)]).pending = .command (bare 0xBC04) :: [] :=
  ⟨by decide +kernel, by decide +kernel, rfl⟩
theorem witness_StepPerformsTheDecodedCommand :
    (presented [.command (bare 0x0304)]).pending = .command (bare 0x0304) :: [] ∧
      decode (bare 0x0304).cmd = .legal (.byteRd 3) := ⟨rfl, by decide⟩
theorem witness_FetchWordIsPerformedNext : decodeTableWord 16 0xBB04 = some (.byteRd 187) := by decide
theorem witness_CommandAfterIllegalWordIsServedAsUsual :
    (presented [.command (bare 0), .command (bare 0x0006)]).pending =
      .command (bare 0) :: .command (bare 0x0006) :: [] ∧ IllegalWord (bare 0).cmd :=
  ⟨rfl, by decide⟩
theorem witness_StatusIsOkForLegalWordsOnly :
    ¬ IllegalWord (bare 0xBB04).cmd ∧ IllegalWord (bare 0xBC04).cmd ∧
      (presented [.command (bare 0xBB04)]).pending = .command (bare 0xBB04) :: [] :=
  ⟨by decide, by decide, rfl⟩
theorem witness_EveryWellFormedCommandCompletes : Instr.wf (.byteRd 187) = true := by decide
theorem witness_StopsOnlyWhenHostsCollide :
    (presented [.collide (bare 1) (bare 2)]).pending = .collide (bare 1) (bare 2) :: [] ∧
      step (presented [.collide (bare 1) (bare 2)]) = .refused .concurrentHosts := ⟨rfl, rfl⟩
theorem witness_WaitsWhileNothingIsPresented : State.reset.pending = [] := rfl
theorem witness_PresentedCommandsAreServedOneAStep :
    (presented [.command (bare 1), .command (bare 0), .reset none]).pending =
      [bare 1, bare 0].map HostEvent.command ++ [.reset none] := rfl
/-- Two states with one command pending and the same buffer, different in everything else. -/
theorem witness_OnlyTheBufferIsCarriedBetweenCommands :
    ∃ s s' : State, s.pending = .command (bare 3) :: [] ∧
      s'.pending = .command (bare 3) :: [.reset none] ∧ s.cfg = s'.cfg ∧ s.buf = s'.buf ∧
      s.draws ≠ s'.draws ∧ decode (bare 3).cmd = .legal .blkRead :=
  ⟨presented [.command (bare 3)],
    { State.reset with pending := [.command (bare 3), .reset none], draws := 7 },
    rfl, rfl, rfl, rfl, by decide, by decide⟩
theorem witness_ResetBufferIsAsRule31Says :
    Config.reference.resetMode = .nullPacket ∧
      { Config.reference with resetMode := .unspecified }.resetMode = .unspecified := ⟨rfl, rfl⟩
theorem witness_ResetLeavesTheBufferOfItsMode :
    (presented [.reset (some (bare 1))]).pending = .reset (some (bare 1)) :: [] ∧
      (presented [.reset (some (bare 1))]).cfg.resetMode = .nullPacket ∧
      { presented [.reset none] with
        cfg := { Config.reference with resetMode := .unspecified } }.cfg.resetMode = .unspecified :=
  ⟨rfl, rfl, rfl⟩
theorem witness_ResetMeetsTheInvariant :
    Config.wf { Config.reference with nullB1 := 0xFF, nullB3 := 0xD0 } := by decide
theorem inv_of_pending (s : State) (es : List HostEvent) (h : s.buf.wf) (hc : s.cfg.wf) :
    State.Inv { s with pending := es } := ⟨h, hc⟩
/-- A state with inputs pending meets the invariant. -/
theorem presented_inv (es : List HostEvent) : (presented es).Inv :=
  inv_of_pending State.reset es State.reset_buf_wf (by decide +kernel)
/-- An invariant state that steps: a state in which a command is served. -/
theorem witness_EveryStepKeepsTheInvariant :
    (presented [.command (bare 0x0008)]).Inv ∧
      ∃ t, step (presented [.command (bare 0x0008)]) = .next t :=
  ⟨presented_inv _, _, rfl⟩
theorem witness_NoStepChangesTheConfiguration :
    ∃ t, step (presented [.command (bare 0x0001)]) = .next t := ⟨_, rfl⟩
/-- Each of the three commands that write byte 0 does change it somewhere. -/
theorem witness_SyncOkReportsTheSyncByte :
    gives .nullPkt (packet [(0, 0x46)]) 0 0 [(0, 0x47)] = true ∧
      gives .blkLoad State.reset 0 0 [(0, 0x00)] = true ∧
      gives (.byteWr 0) State.reset 0x46 0 [(0, 0x46)] = true := by decide +kernel
/-- Bits 7, 6, 5 of byte 1 and bit 4 of byte 3 are set, then cleared. -/
theorem witness_HeaderFlagSettersOrTheirBitOnly :
    gives .nullPkt (packet [(1, 0xFF), (3, 0x10)]) 0 0 [(1, 0x1F), (3, 0x00)] = true ∧
      gives (.byteWr 1) (packet [(1, 0xFF)]) 0 0 [(1, 0x00)] = true ∧
      gives (.byteWr 3) (packet [(3, 0x10)]) 0 0 [(3, 0x00)] = true := by decide +kernel
/-- The AF-present bit is set and cleared by the commands the claim names. -/
theorem witness_AfPresentIsReadByGetAfcAndSetBySetAfLen :
    Config.reference.wf ∧ gives .setAfLen State.reset 1 0 [(3, 0x20)] = true ∧
      gives .setAfLen (configured { Config.reference with afZeroLen := .setAndWrite }) 0 0
        [(3, 0x20)] = true ∧
      gives .nullPkt (packet [(3, 0x20)]) 0 0 [(3, 0x00)] = true ∧
      gives (.byteWr 3) State.reset 0x20 0 [(3, 0x20)] = true := by decide +kernel
theorem witness_GetAfLenReturnsByteFour :
    (State.reset.withDin 0x1).din.toNat % 256 ≠ 0 ∧ (State.reset.withDin 0xFF).din.toNat % 256 ≠ 0 := by
  decide
/-- Bits 6, 5, 4 of byte 5 are set, then cleared. -/
theorem witness_ByteFiveFlagSettersOrTheirBitOnly :
    gives .setAfLen State.reset 1 0 [(5, 0x00)] = true ∧
      gives .blkLoad State.reset 0 0 [(5, 0x00)] = true ∧
      gives (.byteWr 5) State.reset 0 0 [(5, 0x00)] = true := by decide +kernel
theorem witness_ClrDiscClearsOneBit :
    gives .clrDisc State.reset 0 0 [(5, 0x7F)] = true ∧
      gives (.byteWr 5) State.reset 0 0 [(5, 0x00)] = true ∧
      gives .nullPkt (packet [(1, 0xFF)]) 0 0 [(1, 0x1F)] = true := by decide +kernel
theorem witness_SetAfLenErasesFlagsPcrAndPayload :
    (State.reset.withDin 2).din.toNat % 256 ≠ 0 ∧ 2 ≤ (State.reset.withDin 2).din.toNat % 256 ∧
      (State.reset.withDin 2).cfg.afFill = .toEnd ∧ (12 : Index).val = 12 := by decide +kernel
/-- Two states that differ in the presence bits and the reserved bits alone, and every command that the
third clause names changing a reserved bit. -/
theorem witness_PcrGettersSeePcrBitsOnly :
    (∀ j : Index, 6 ≤ j.val → j.val ≤ 9 →
      (packet [(3, 0x20), (5, 0x00), (10, 0x81)]).readB j = State.reset.readB j) ∧
    (packet [(3, 0x20), (5, 0x00), (10, 0x81)]).readB 10 &&& 0x81 = State.reset.readB 10 &&& 0x81 ∧
    (packet [(3, 0x20), (5, 0x00), (10, 0x81)]).readB 11 = State.reset.readB 11 ∧
    gives .setPcrBase (packet [(10, 0x00)]) 0 0 [(10, 0x7E)] = true ∧
    gives .setAfLen (packet [(10, 0x00)]) 7 0 [(10, 0xFF)] = true := by decide +kernel
theorem witness_NullPacketFieldValues :
    (configured { Config.reference with nullB1 := 0xFF, nullB3 := 0xD0 }).cfg.wf := by decide
theorem witness_RawConversionsAreLossless : State.reset.buf.wf := State.reset_buf_wf
theorem witness_ByteRdReturnsTheIndexedByte :
    (187#8).toNat ≤ 187 ∧ (187#8).toNat = (187 : Index).val ∧ 188 ≤ (188#8).toNat := by decide
theorem witness_ByteWrWritesTheIndexedByte :
    (0#8).toNat ≤ 187 ∧ (0#8).toNat = (0 : Index).val ∧ 188 ≤ (255#8).toNat := by decide
/-- Two states that agree on SET_PID's read set, byte 1, and not on byte 2. -/
theorem witness_ResultsDependOnTheReadSetOnly :
    (∀ j : Index, readsByte .setPid j = true → State.reset.readB j = (packet [(2, 0x55)]).readB j) ∧
      State.reset.readB 2 ≠ (packet [(2, 0x55)]).readB 2 := by decide +kernel
/-- SET_PID shares byte 1 with TEI and no bit. -/
theorem witness_SettersNeverDisturbOtherFields :
    isFieldSetter .setPid = true ∧
      ∀ j, Field.tei.mask j &&& writeMask State.reset.cfg State.reset.din .setPid j = 0 := by
  decide +kernel
/-- SET_PCR_BASE and SET_PCR_EXT share byte 10 and no bit. -/
theorem witness_DisjointSettersCommute :
    isFieldSetter .setPcrBase = true ∧ isFieldSetter .setPcrExt = true ∧
      (∀ j, writeMask State.reset.cfg 1 .setPcrBase j &&&
        writeMask State.reset.cfg 0x1FF .setPcrExt j = 0) := by decide +kernel
theorem witness_CommandsAreIdempotentAndReadersPure :
    State.reset.buf.wf ∧ isReader (.byteRd 188) = true := ⟨State.reset_buf_wf, rfl⟩
theorem witness_MultiByteFieldsAreMostSignificantFirst : 183 + 5 ≤ 188 ∧ 188 + 0 ≤ 188 := by decide
theorem witness_DeclaredFieldThenPcrMeetsCallerObligations :
    7 ≤ (7 : Operand).toNat ∧ (7 : Operand).toNat ≤ 183 ∧ 7 ≤ (183 : Operand).toNat ∧
      (183 : Operand).toNat ≤ 183 := by decide
/-- A state that meets (a) and (g) of R246, and the ends of (d)'s range. -/
theorem witness_caller_obligations_kept :
    State.reset.syncValid ∧ State.reset.serialised ∧ (6 : Index).val = 6 ∧ (11 : Index).val = 11 :=
  ⟨by decide +kernel, fun _ _ => List.not_mem_nil, rfl, rfl⟩
theorem witness_PayloadSurvivesTheBoundedFill :
    (configured { Config.reference with afFill := .bounded }).cfg.afFill = .bounded := rfl
theorem witness_PseudoInstructionsDoWhatTheyName :
    State.reset.pending = [] ∧ (4 : Index).val < 5 ∧ 11 < (12 : Index).val := ⟨rfl, by decide⟩

end Sys2Proof.Tests
end

section
/-! SUPPORT. What a command can do to the state, said once: edits of the buffer, then one response. The
invariant of Safety.lean after reset and after every step follows from it. -/

namespace Sys2Proof.Machine

/-! ### What a command can do -/

/-- `u` is `s` after some byte writes and whole-buffer images (00_scope.md R11, 20_memory.md R47). -/
inductive State.Edits (s : State) : State → Prop
  | refl : s.Edits s
  | byte {u : State} (i : Index) (v : Byte) (h : s.Edits u) : s.Edits (u.writeB i v)
  | image {u : State} (f : Index → Byte) (h : s.Edits u) : s.Edits (u.withBuf (Memory.ofBytes f))

/-- `t` is `u` after one response (10_state.md R24, 44_packet_view.md R193, 60_exceptions.md R211). -/
inductive State.Answers (u : State) : State → Prop
  | ok (d : Operand) : u.Answers (u.respond d)
  | block (b : Block) : u.Answers (u.respondBlock b)
  | illegal : u.Answers u.raiseIllegal

/-- The masked updates RMW, OR and AND (R13) are writes of one byte. -/
theorem State.edits_writeB (s : State) (i : Index) (v : Byte) : s.Edits (s.writeB i v) :=
  .byte i v .refl

theorem State.edits_afLenZero (s : State) : s.Edits s.afLenZero := by
  cases hz : s.cfg.afZeroLen <;> simp only [State.afLenZero, hz]
  case noop => exact .refl
  case writeLen => exact s.edits_writeB _ _
  case setAndWrite => exact .byte _ _ (s.edits_writeB _ _)

theorem State.edits_afLenDeclare (s : State) (len : Byte) : s.Edits (s.afLenDeclare len) := by
  have declared : s.Edits (((s.orB 3 0x20).writeB 4 len).writeB 5 0x00) :=
    .byte _ _ (.byte _ _ (s.edits_writeB _ _))
  unfold State.afLenDeclare
  split
  · exact .image _ declared
  · exact declared

/-- Every command edits the buffer and then answers; none faults or is refused (60_exceptions.md R210). -/
theorem exec_edits_answers (i : Instr) (s : State) :
    ∃ u t, exec i s = .next t ∧ s.Edits u ∧ u.Answers t := by
  cases i with
  | nullPkt | blkLoad => exact ⟨_, _, rfl, .image _ .refl, .ok 0⟩
  | blkRead => exact ⟨_, _, rfl, .refl, .block _⟩
  | byteRd idx =>
    simp only [exec, execByteRd]
    cases indexOperand idx with
    | some j => exact ⟨_, _, rfl, .refl, .ok _⟩
    | none => exact ⟨_, _, rfl, .refl, .illegal⟩
  | byteWr idx =>
    simp only [exec, execByteWr]
    cases indexOperand idx with
    | some j => exact ⟨_, _, rfl, s.edits_writeB _ _, .ok 0⟩
    | none => exact ⟨_, _, rfl, .refl, .illegal⟩
  | setTei | setPusi | setTp | setSc | setPayload | setCc | ccReset
  | setDisc | clrDisc | setRai | setEspi | setPcrf =>
    exact ⟨_, _, rfl, s.edits_writeB _ _, .ok 0⟩
  | setPid | setPcrExt => exact ⟨_, _, rfl, .byte _ _ (s.edits_writeB _ _), .ok 0⟩
  | setPcrBase =>
    exact ⟨_, _, rfl, .byte _ _ (.byte _ _ (.byte _ _ (.byte _ _ (.byte _ _ (s.edits_writeB _ _))))),
      .ok 0⟩
  | setAfLen =>
    refine ⟨_, _, rfl, ?_, .ok 0⟩
    split
    · exact s.edits_afLenZero
    · exact s.edits_afLenDeclare _
  | syncOk | getTei | getPusi | getTp | getPid | getSc | getAfc | getPayload | getCc | getAfLen
  | getDisc | getRai | getEspi | getPcrf | getPcrBase | getPcrExt =>
    exact ⟨_, _, rfl, .refl, .ok _⟩

/-! ### The invariant -/

theorem State.Edits.inv {s u : State} (he : s.Edits u) (h : s.Inv) : u.Inv := by
  induction he with
  | refl => exact h
  | byte i v _ ih => exact State.inv_writeB _ i v ih
  | image f _ ih => exact State.inv_withBuf _ _ ih (Memory.wf_ofBytes f)

theorem State.Answers.inv {u t : State} (ha : u.Answers t) (h : u.Inv) : t.Inv := by
  cases ha with
  | ok d => exact u.inv_respond d h
  | block b => exact u.inv_respondBlock b h
  | illegal => exact u.inv_raiseIllegal h

theorem exec_inv {i : Instr} {s t : State} (h : s.Inv) (he : exec i s = .next t) : t.Inv := by
  obtain ⟨u, t', he', hedits, hanswers⟩ := exec_edits_answers i s
  obtain rfl : t' = t := Host.Outcome.next.inj (he'.symm.trans he)
  exact hanswers.inv (hedits.inv h)

theorem step_inv {s t : State} (h : s.Inv) (hs : step s = .next t) : t.Inv := by
  obtain ⟨-, rfl⟩ | ⟨_, rest, -, rfl⟩ | ⟨tr, rest, i, -, -, he⟩ | ⟨tr, rest, _, -, -, rfl⟩ :=
    step_cases hs
  · exact h
  · exact s.inv_takeReset rest h
  · exact exec_inv (s.inv_accept tr rest h) he
  · exact State.inv_raiseIllegal _ (s.inv_accept tr rest h)

theorem State.resetWith_inv {cfg : Config} (hc : cfg.wf) : (State.resetWith cfg).Inv :=
  ⟨State.resetWith_buf_wf cfg, hc⟩

/-- Settles O18: a step waits, resets, performs a command or raises IllegalCommand, and each keeps the
invariant. -/
theorem everyStepKeepsTheInvariant : Obligations.EveryStepKeepsTheInvariant :=
  fun _ _ => step_inv

/-- Settles O17: every reset buffer is a whole-buffer image, and R8's defaults are admissible. -/
theorem resetMeetsTheInvariant : Obligations.ResetMeetsTheInvariant :=
  ⟨State.resetWith_inv (by decide), fun _ => State.resetWith_inv⟩

end Sys2Proof.Machine
end

section
/-! SUPPORT. What a command leaves alone and what it depends on: it keeps the configuration and its
port, and from the same configuration, buffer and operands it makes the same buffer and response
(10_state.md R20, R26, R28). -/

namespace Sys2Proof.Machine

/-! ### What a command keeps -/

theorem State.Edits.keeps {s u : State} (he : s.Edits u) : s.Keeps u := by
  induction he with
  | refl => exact s.keeps_refl
  | byte i v _ ih => exact ih.trans (State.keeps_writeB _ i v)
  | image f _ ih => exact ih.trans (State.keeps_withBuf _ _)

theorem State.Answers.keeps {u t : State} (ha : u.Answers t) : u.Keeps t := by
  cases ha with
  | ok d => exact u.keeps_respond d
  | block b => exact u.keeps_respondBlock b
  | illegal => exact u.keeps_raiseIllegal

theorem exec_keeps {i : Instr} {s t : State} (he : exec i s = .next t) : s.Keeps t := by
  obtain ⟨u, t', he', hedits, hanswers⟩ := exec_edits_answers i s
  obtain rfl : t' = t := Host.Outcome.next.inj (he'.symm.trans he)
  exact hedits.keeps.trans hanswers.keeps

theorem step_cfg {s t : State} (hs : step s = .next t) : t.cfg = s.cfg := by
  obtain ⟨-, rfl⟩ | ⟨_, rest, -, rfl⟩ | ⟨tr, rest, i, -, -, he⟩ | ⟨tr, rest, _, -, -, rfl⟩ :=
    step_cases hs
  · rfl
  · exact s.takeReset_cfg rest
  · obtain ⟨hcfg, -⟩ := exec_keeps he
    exact hcfg.trans (s.accept_cfg tr rest)
  · exact (State.raiseIllegal_cfg _).trans (s.accept_cfg tr rest)

/-- Settles O19: a reset, a command and IllegalCommand all keep the configuration. -/
theorem noStepChangesTheConfiguration : Obligations.NoStepChangesTheConfiguration :=
  fun _ _ => step_cfg

/-! ### What a command depends on -/

/-- The same configuration, buffer and operands: all of the state that a command reads (R24, R28). -/
structure State.SameInputs (s s' : State) : Prop where
  cfg : s.cfg = s'.cfg
  buf : s.buf = s'.buf
  din : s.din = s'.din
  blkIn : s.blkIn = s'.blkIn

/-- The same configuration, buffer, `STATUS` and `DOUT`. -/
structure State.SameResult (t t' : State) : Prop where
  cfg : t.cfg = t'.cfg
  buf : t.buf = t'.buf
  status : t.status = t'.status
  dout : t.dout = t'.dout

section
variable {s s' : State} (h : s.SameInputs s')
include h

theorem State.SameInputs.withBuf (m : Memory) : (s.withBuf m).SameInputs (s'.withBuf m) :=
  ⟨h.cfg, rfl, h.din, h.blkIn⟩

theorem State.SameInputs.writeB (i : Index) (v : Byte) :
    (s.writeB i v).SameInputs (s'.writeB i v) :=
  ⟨h.cfg, congrArg (·.write i v) h.buf, h.din, h.blkIn⟩

theorem State.SameInputs.orB (i : Index) (m : Byte) : (s.orB i m).SameInputs (s'.orB i m) := by
  simpa only [State.orB, State.readB, h.buf] using h.writeB i _

theorem State.SameInputs.afLenZero : s.afLenZero.SameInputs s'.afLenZero := by
  simp only [State.afLenZero, h.cfg]
  split
  · exact h
  · exact h.writeB 4 0
  · exact (h.orB 3 0x20).writeB 4 0

theorem State.SameInputs.afLenDeclare (len : Byte) :
    (s.afLenDeclare len).SameInputs (s'.afLenDeclare len) := by
  have declared := ((h.orB 3 0x20).writeB 4 len).writeB 5 0x00
  simp only [State.afLenDeclare, h.cfg, declared.buf]
  split
  · exact declared.withBuf _
  · exact declared

/-- SET_AF_LEN's update of the buffer, for either kind of length (R140, R142). -/
theorem State.SameInputs.afLenUpdate (len : Byte) :
    (if len = 0 then s.afLenZero else s.afLenDeclare len).SameInputs
      (if len = 0 then s'.afLenZero else s'.afLenDeclare len) := by
  split
  · exact h.afLenZero
  · exact h.afLenDeclare len

theorem State.SameInputs.respond (d : Operand) : (s.respond d).SameResult (s'.respond d) :=
  ⟨h.cfg, h.buf, rfl, rfl⟩

theorem State.SameInputs.raiseIllegal : s.raiseIllegal.SameResult s'.raiseIllegal :=
  ⟨h.cfg, h.buf, rfl, rfl⟩

end

/-- Two states with the same configuration and buffer that take the same transaction. -/
theorem State.sameInputs_accept {s s' : State} (hcfg : s.cfg = s'.cfg) (hbuf : s.buf = s'.buf)
    (t : Transaction) (rest rest' : List HostEvent) :
    (s.accept t rest).SameInputs (s'.accept t rest') :=
  ⟨hcfg, hbuf, rfl, rfl⟩

/-- A command sees the configuration, the buffer and its operands alone: the last response, what is
pending and the count of free values reach neither the buffer nor the response. -/
theorem exec_sameResult (i : Instr) {s s' : State} (h : s.SameInputs s') :
    ∃ t t', exec i s = .next t ∧ exec i s' = .next t' ∧ t.SameResult t' ∧
      (i = .blkRead → t.blkOut = t'.blkOut) := by
  obtain ⟨_, _, _, _, _, _, _, _, _⟩ := s'
  obtain ⟨rfl, rfl, rfl, rfl⟩ := h
  cases i with
  | setAfLen =>
    refine ⟨_, _, rfl, rfl, State.SameInputs.respond ?_ 0, nofun⟩
    refine State.SameInputs.afLenUpdate ?_ (afLenOperand s.din)
    exact ⟨rfl, rfl, rfl, rfl⟩
  | blkRead => exact ⟨_, _, rfl, rfl, ⟨rfl, rfl, rfl, rfl⟩, fun _ => rfl⟩
  | byteRd idx =>
    simp only [exec, execByteRd]
    cases indexOperand idx <;> exact ⟨_, _, rfl, rfl, ⟨rfl, rfl, rfl, rfl⟩, nofun⟩
  | byteWr idx =>
    simp only [exec, execByteWr]
    cases indexOperand idx <;> exact ⟨_, _, rfl, rfl, ⟨rfl, rfl, rfl, rfl⟩, nofun⟩
  -- Every other arm names no field but these four, so its two results agree by definition.
  | _ => exact ⟨_, _, rfl, rfl, ⟨rfl, rfl, rfl, rfl⟩, nofun⟩

/-- Settles O14: a legal word is a command on the same inputs, an illegal word answers without
reading any. -/
theorem onlyTheBufferIsCarriedBetweenCommands :
    Obligations.OnlyTheBufferIsCarriedBetweenCommands := by
  intro s s' t rest rest' hp hp' hcfg hbuf
  have h := State.sameInputs_accept hcfg hbuf t rest rest'
  cases hd : decode t.cmd with
  | legal i =>
    obtain ⟨u, u', he, he', hr, hblk⟩ := exec_sameResult i h
    exact ⟨u, u', (step_of_legal s t rest i hp hd).trans he,
      (step_of_legal s' t rest' i hp' hd).trans he', hr.buf, hr.status, hr.dout,
      fun hi => hblk (Decoded.legal.inj hi)⟩
  | illegal c =>
    have hr := h.raiseIllegal
    exact ⟨_, _, step_of_illegal s t rest c hp hd, step_of_illegal s' t rest' c hp' hd,
      hr.buf, hr.status, hr.dout, nofun⟩

/-! ### The command a step performs -/

/-- Settles O6: taking the transaction from the queue is `State.accept`. -/
theorem stepPerformsTheDecodedCommand : Obligations.StepPerformsTheDecodedCommand :=
  step_of_legal

theorem decode_of_decodeTableWord {nbits w : Nat} {i : Instr}
    (h : decodeTableWord nbits w = some i) :
    decode (BitVec.ofNat 16 (w % 2 ^ nbits)) = .legal i := by
  unfold decodeTableWord at h
  cases hd : decode (BitVec.ofNat 16 (w % 2 ^ nbits)) with
  | legal j =>
    rw [hd] at h
    exact congrArg Decoded.legal (Option.some.inj h)
  | illegal c =>
    rw [hd] at h
    exact nomatch h

/-- Settles O7: taking back the transaction that `withFetchWord` placed restores the state. -/
theorem fetchWordIsPerformedNext : Obligations.FetchWordIsPerformedNext :=
  fun s nbits w i h =>
    step_of_legal (s.withFetchWord nbits w) _ s.pending i rfl (decode_of_decodeTableWord h)

/-! ### The buffer after reset -/

theorem State.readB_resetWith (cfg : Config) (j : Index) :
    (State.resetWith cfg).readB j = (resetBuffer cfg 0).read j := rfl

/-- R190's table by index, as a chain of tests. -/
theorem nullByte_eq_ite (cfg : Config) (j : Index) :
    nullByte cfg j =
      if j = 0 then 0x47 else if j = 1 then cfg.nullB1 else if j = 2 then 0xFF
      else if j = 3 then cfg.nullB3 else 0xFF := by
  unfold nullByte
  split
  next h => obtain rfl : j = 0 := Fin.ext h; rfl
  next h => obtain rfl : j = 1 := Fin.ext h; rfl
  next h => obtain rfl : j = 2 := Fin.ext h; rfl
  next h => obtain rfl : j = 3 := Fin.ext h; rfl
  next h0 h1 h2 h3 =>
    rw [if_neg (h0 <| congrArg Fin.val ·), if_neg (h1 <| congrArg Fin.val ·),
      if_neg (h2 <| congrArg Fin.val ·), if_neg (h3 <| congrArg Fin.val ·)]

/-- Settles O15: the null packet byte by byte, the free bytes, and the default column of R8. -/
theorem resetBufferIsAsRule31Says : Obligations.ResetBufferIsAsRule31Says := by
  refine ⟨fun cfg hmode j => ?_, fun cfg hmode j => ?_, rfl⟩
  · rw [State.readB_resetWith, resetBuffer_of_nullPacket cfg 0 hmode, nullPacket_read,
      nullByte_eq_ite]
  · rw [State.readB_resetWith, resetBuffer_read_of_unspecified cfg 0 j hmode]

/-! ### Getters -/

/-- A command that only responds completes with that result, every byte as before. -/
theorem completes_of_exec_eq_respond {i : Instr} {s : State} {d : Operand}
    (h : exec i s = .next (s.respond d)) : Completes i s d s.readB :=
  ⟨_, h, rfl, rfl, s.readB_respond d, s.keeps_respond d⟩

/-- Settles O49: each getter responds with its field's value and does nothing else. -/
theorem gettersReturnTheirMappedField : Obligations.GettersReturnTheirMappedField := by
  intro s
  and_intros <;> exact completes_of_exec_eq_respond rfl

end Sys2Proof.Machine
end

section
/-! SUPPORT. Every command as one masked write of the whole buffer: the bits of its write set take
values that its operands and the configuration alone decide, every other bit stays (20_memory.md R46,
R48, R51). -/

namespace Sys2Proof.Machine

/-! ### Masked writes of a byte -/

/-- The byte `old` with the bits of `mask` taken from `new`: what RMW writes (00_scope.md R13). -/
def mergeByte (old mask new : Byte) : Byte := (old &&& ~~~mask) ||| (new &&& mask)

theorem getElem_mergeByte (old mask new : Byte) (k : Nat) (hk : k < 8) :
    (mergeByte old mask new)[k] = if mask[k] then new[k] else old[k] := by
  cases hm : mask[k] <;> simp [mergeByte, hm]

theorem getElem_fullByte (k : Nat) (hk : k < 8) : (0xFF#8)[k] = true := by
  revert k
  decide

@[simp] theorem mergeByte_zero (old new : Byte) : mergeByte old 0#8 new = old := by
  ext k hk
  simp [getElem_mergeByte]

@[simp] theorem mergeByte_full (old new : Byte) : mergeByte old 0xFF#8 new = new := by
  ext k hk
  simp [getElem_mergeByte, getElem_fullByte]

/-- A flag setter's OR writes ones (41_header.md R100). -/
theorem mergeByte_ones (old mask : Byte) : mergeByte old mask 0xFF#8 = old ||| mask := by
  ext k hk
  cases hm : mask[k] <;> simp [getElem_mergeByte, getElem_fullByte, hm]

/-- The AND of CC_RESET and CLR_DISC writes zeros (R118, R145). -/
theorem mergeByte_zeros (old mask : Byte) : mergeByte old mask 0#8 = old &&& ~~~mask := by
  simp [mergeByte]

theorem mergeByte_and_not_mask (old mask new : Byte) :
    mergeByte old mask new &&& ~~~mask = old &&& ~~~mask := by
  ext k hk
  cases hm : mask[k] <;> simp [getElem_mergeByte, hm]

theorem mergeByte_and_mask (old mask new : Byte) :
    mergeByte old mask new &&& mask = new &&& mask := by
  ext k hk
  cases hm : mask[k] <;> simp [getElem_mergeByte, hm]

theorem mergeByte_self (old mask new : Byte) :
    mergeByte (mergeByte old mask new) mask new = mergeByte old mask new := by
  ext k hk
  cases hm : mask[k] <;> simp [getElem_mergeByte, hm]

theorem mergeByte_comm (old m n v w : Byte) (h : m &&& n = 0) :
    mergeByte (mergeByte old m v) n w = mergeByte (mergeByte old n w) m v := by
  ext k hk
  have hmn : (m[k] && n[k]) = false := by simpa using congrArg (·[k]) h
  cases hm : m[k] <;> cases hn : n[k] <;> simp_all [getElem_mergeByte]

/-! ### Masked writes of the buffer -/

/-- `u` is `s` with the bits `mask j` of each byte `j` taken from `new j`, and the configuration and the
port kept. -/
def State.Merges (s u : State) (mask new : Index → Byte) : Prop :=
  s.Keeps u ∧ ∀ j, u.readB j = mergeByte (s.readB j) (mask j) (new j)

/-! The byte operations of R11 and R13 are all RMW. -/

theorem State.writeB_eq_rmw (s : State) (i : Index) (v : Byte) : s.writeB i v = s.rmw i 0xFF v :=
  congrArg (s.writeB i) (mergeByte_full (s.readB i) v).symm

theorem State.orB_eq_rmw (s : State) (i : Index) (m : Byte) : s.orB i m = s.rmw i m 0xFF :=
  congrArg (s.writeB i) (mergeByte_ones (s.readB i) m).symm

theorem State.andB_eq_rmw (s : State) (i : Index) (m : Byte) : s.andB i (~~~m) = s.rmw i m 0 :=
  congrArg (s.writeB i) (mergeByte_zeros (s.readB i) m).symm

theorem State.readB_rmw_eq_mergeByte (s : State) (i j : Index) (m v : Byte) :
    (s.rmw i m v).readB j = mergeByte (s.readB j) (maskAt i m j) v := by
  by_cases hj : j = i
  · simp [hj, maskAt, mergeByte]
  · simp [hj, maskAt]

theorem State.merges_rmw (s : State) (i : Index) (m v : Byte) :
    s.Merges (s.rmw i m v) (maskAt i m) fun _ => v :=
  ⟨s.keeps_writeB i _, fun j => s.readB_rmw_eq_mergeByte i j m v⟩

section
variable {s u : State} {mask new : Index → Byte} (h : s.Merges u mask new)
include h

/-- RMW of a byte none of whose bits is written yet. -/
theorem State.Merges.rmw (i : Index) (m v : Byte) (hi : mask i = 0) :
    s.Merges (u.rmw i m v) (fun j => mask j ||| maskAt i m j) fun j => if j = i then v else new j := by
  obtain ⟨hkeeps, hread⟩ := h
  refine ⟨hkeeps.trans (u.keeps_writeB i _), fun j => ?_⟩
  rw [u.readB_rmw_eq_mergeByte, hread]
  by_cases hj : j = i
  · simp [hj, hi, maskAt]
  · simp [hj, maskAt]

theorem State.Merges.writeB (i : Index) (v : Byte) (hi : mask i = 0) :
    s.Merges (u.writeB i v) (fun j => mask j ||| maskAt i 0xFF j)
      fun j => if j = i then v else new j :=
  u.writeB_eq_rmw i v ▸ h.rmw i 0xFF v hi

theorem State.Merges.respond (d : Operand) : s.Merges (u.respond d) mask new :=
  ⟨h.1.trans (u.keeps_respond d), h.2⟩

end

/-- An image of the whole buffer writes every bit. -/
theorem State.merges_withBuf_ofBytes (s : State) (f : Index → Byte) :
    s.Merges (s.withBuf (Memory.ofBytes f)) (fun _ => 0xFF) f :=
  ⟨s.keeps_withBuf _, fun j => by simp⟩

/-- A change of the response alone writes no bit. -/
theorem State.merges_of_buf_eq {s t : State} (hkeeps : s.Keeps t) (hbuf : t.buf = s.buf)
    (new : Index → Byte) :
    s.Merges t (fun _ => 0) new :=
  ⟨hkeeps, fun j => by simp [State.readB, hbuf]⟩

/-! ### What each command writes -/

/-- The bits command `i` writes to byte `j`, from its operands and the configuration; only those of
`writeMask` count. -/
def writtenByte (cfg : Config) (din : Operand) (blkIn : Block) (i : Instr) (j : Index) : Byte :=
  match i with
  | .nullPkt => nullByte cfg j
  | .blkLoad => laneOf blkIn j
  | .byteWr _ => byteOperand din
  | .setTei | .setPusi | .setTp | .setPayload | .setDisc | .setRai | .setEspi | .setPcrf => 0xFF
  | .ccReset | .clrDisc => 0
  | .setPid =>
    if j = 2 then (pidOperand din).setWidth 8 else (pidOperand din >>> 8).setWidth 8
  | .setSc => (scOperand din).setWidth 8 <<< 6
  | .setCc => (ccOperand din).setWidth 8
  | .setAfLen => if j = 4 then afLenOperand din else if j = 5 then 0 else 0xFF
  | .setPcrBase =>
    if j = 10 then ((pcrBaseOperand din).extractLsb' 0 1).setWidth 8 <<< 7 ||| 0x7E#8
    else if j = 9 then (pcrBaseOperand din).extractLsb' 1 8
    else if j = 8 then (pcrBaseOperand din).extractLsb' 9 8
    else if j = 7 then (pcrBaseOperand din).extractLsb' 17 8
    else if j = 6 then (pcrBaseOperand din).extractLsb' 25 8
    else 0xFF
  | .setPcrExt =>
    if j = 11 then (pcrExtOperand din).setWidth 8 else (pcrExtOperand din >>> 8).setWidth 8
  | .blkRead | .byteRd _ | .syncOk
  | .getTei | .getPusi | .getTp | .getPid | .getSc | .getAfc | .getPayload | .getCc | .getAfLen
  | .getDisc | .getRai | .getEspi | .getPcrf | .getPcrBase | .getPcrExt => 0

/-- SET_PCR_BASE's byte 10 keeps the extension's bit alone (R170). -/
theorem State.writeB_pcrBaseLow (s : State) (b : BitVec 1) :
    s.writeB 10 ((s.readB 10 &&& 0x01#8) ||| (b.setWidth 8 <<< 7) ||| 0x7E#8) =
      s.rmw 10 0xFE#8 (b.setWidth 8 <<< 7 ||| 0x7E#8) := by
  refine congrArg (s.writeB 10) ?_
  have hb : (b.setWidth 8 <<< 7 ||| 0x7E#8) &&& 0xFE#8 = b.setWidth 8 <<< 7 ||| 0x7E#8 := by
    revert b
    decide
  rw [hb, BitVec.or_assoc]
  rfl

theorem State.merges_afLenZero (s : State) (blkIn : Block) (hlen : afLenOperand s.din = 0) :
    s.Merges s.afLenZero (writeMask s.cfg s.din .setAfLen)
      (writtenByte s.cfg s.din blkIn .setAfLen) := by
  refine ⟨s.keeps_afLenZero, fun j => ?_⟩
  simp only [s.readB_afLenZero, writeMask, writtenByte, afLenWriteMask, hlen, if_true]
  cases hz : s.cfg.afZeroLen <;> simp only [maskAt]
  case noop => simp
  case writeLen => by_cases h4 : j = 4 <;> simp [h4]
  case setAndWrite =>
    by_cases h4 : j = 4
    · simp [h4]
    · by_cases h3 : j = 3 <;> simp [h4, h3, mergeByte_ones]

theorem State.merges_afLenDeclare (s : State) (blkIn : Block) (hlen : afLenOperand s.din ≠ 0) :
    s.Merges (s.afLenDeclare (afLenOperand s.din)) (writeMask s.cfg s.din .setAfLen)
      (writtenByte s.cfg s.din blkIn .setAfLen) := by
  refine ⟨s.keeps_afLenDeclare _, fun j => ?_⟩
  simp only [s.readB_afLenDeclare, writeMask, writtenByte, afLenWriteMask, hlen, if_false]
  split
  next hfill =>
    have h4 : j ≠ 4 := by rintro rfl; simp at hfill
    have h5 : j ≠ 5 := by rintro rfl; simp at hfill
    simp [h4, h5]
  next =>
    by_cases h5 : j = 5
    · simp [h5, maskAt]
    · by_cases h4 : j = 4
      · simp [h4, maskAt]
      · by_cases h3 : j = 3 <;> simp [h3, h4, h5, maskAt, mergeByte_ones]

theorem exec_byteWr_of_lt (s : State) (idx : BitVec 8) (h : idx.toNat < 188) :
    exec (.byteWr idx) s = .next ((s.writeB ⟨idx.toNat, h⟩ (byteOperand s.din)).respond 0) := by
  simp only [exec, execByteWr, indexOperand_of_lt idx h]

theorem exec_byteWr_of_ge (s : State) (idx : BitVec 8) (h : 188 ≤ idx.toNat) :
    exec (.byteWr idx) s = .next s.raiseIllegal := by
  simp only [exec, execByteWr, indexOperand_of_ge idx h]

theorem exec_byteRd_of_lt (s : State) (idx : BitVec 8) (h : idx.toNat < 188) :
    exec (.byteRd idx) s = .next (s.respond ((s.readB ⟨idx.toNat, h⟩).setWidth 64)) := by
  simp only [exec, execByteRd, indexOperand_of_lt idx h]

theorem exec_byteRd_of_ge (s : State) (idx : BitVec 8) (h : 188 ≤ idx.toNat) :
    exec (.byteRd idx) s = .next s.raiseIllegal := by
  simp only [exec, execByteRd, indexOperand_of_ge idx h]

/-- Every command is a masked write and one response: its write set is `writeMask` and the bits it writes
there are `writtenByte`, which no byte of the buffer enters (20_memory.md R46). -/
theorem exec_merges (i : Instr) (s : State) :
    ∃ t, exec i s = .next t ∧ s.Merges t (writeMask s.cfg s.din i)
      (writtenByte s.cfg s.din s.blkIn i) := by
  cases i with
  | nullPkt | blkLoad => exact ⟨_, rfl, (s.merges_withBuf_ofBytes _).respond 0⟩
  | byteWr idx =>
    by_cases h : idx.toNat < 188
    · have hmask : writeMask s.cfg s.din (.byteWr idx) = maskAt ⟨idx.toNat, h⟩ 0xFF :=
        funext fun j => by simp [writeMask, maskAt, Fin.ext_iff]
      rw [hmask]
      exact ⟨_, exec_byteWr_of_lt s idx h, (s.writeB_eq_rmw _ _ ▸ s.merges_rmw _ _ _).respond 0⟩
    · have hmask : writeMask s.cfg s.din (.byteWr idx) = fun _ => 0 :=
        funext fun j => if_neg fun (hj : j.val = idx.toNat) => h (hj ▸ j.isLt)
      rw [hmask]
      exact ⟨_, exec_byteWr_of_ge s idx (not_lt.mp h), s.merges_of_buf_eq s.keeps_raiseIllegal rfl _⟩
  | setTei | setPusi | setTp | setPayload | setDisc | setRai | setEspi | setPcrf =>
    exact ⟨_, rfl, (s.orB_eq_rmw _ _ ▸ s.merges_rmw _ _ _).respond 0⟩
  | ccReset => exact ⟨_, rfl, (s.andB_eq_rmw 3 0x0F ▸ s.merges_rmw _ _ _).respond 0⟩
  | clrDisc => exact ⟨_, rfl, (s.andB_eq_rmw 5 0x80 ▸ s.merges_rmw _ _ _).respond 0⟩
  | setSc | setCc => exact ⟨_, rfl, (s.merges_rmw _ _ _).respond 0⟩
  | setPid => exact ⟨_, rfl, ((s.merges_rmw 1 _ _).writeB 2 _ rfl).respond 0⟩
  | setPcrExt => exact ⟨_, rfl, ((s.merges_rmw 10 _ _).writeB 11 _ rfl).respond 0⟩
  | setPcrBase =>
    have h5 : s.Merges (s.orB 5 0x10) (maskAt 5 0x10) fun _ => 0xFF :=
      s.orB_eq_rmw 5 0x10 ▸ s.merges_rmw _ _ _
    refine ⟨_, rfl, State.Merges.respond ?_ 0⟩
    rw [State.writeB_pcrBaseLow]
    exact ((((h5.writeB 6 _ rfl).writeB 7 _ rfl).writeB 8 _ rfl).writeB 9 _ rfl).rmw 10 _ _ rfl
  | setAfLen =>
    refine ⟨_, rfl, State.Merges.respond ?_ 0⟩
    split
    next hlen => exact s.merges_afLenZero _ hlen
    next hlen => exact s.merges_afLenDeclare _ hlen
  | byteRd idx =>
    simp only [exec, execByteRd]
    cases indexOperand idx with
    | some j => exact ⟨_, rfl, s.merges_of_buf_eq (s.keeps_respond _) rfl _⟩
    | none => exact ⟨_, rfl, s.merges_of_buf_eq s.keeps_raiseIllegal rfl _⟩
  | blkRead => exact ⟨_, rfl, State.merges_of_buf_eq (s.keeps_respondBlock _) rfl _⟩
  | _ => exact ⟨_, rfl, State.merges_of_buf_eq (s.keeps_respond _) rfl _⟩

theorem merges_of_exec {i : Instr} {s t : State} (he : exec i s = .next t) :
    s.Merges t (writeMask s.cfg s.din i) (writtenByte s.cfg s.din s.blkIn i) := by
  obtain ⟨t', ht', hmerges⟩ := exec_merges i s
  obtain rfl : t' = t := Host.Outcome.next.inj (ht'.symm.trans he)
  exact hmerges

/-- Settles O50: a masked write keeps the bits outside its mask. -/
theorem noCommandWritesOutsideItsWriteSet : Obligations.NoCommandWritesOutsideItsWriteSet := by
  intro i s
  obtain ⟨t, ht, hkeeps, hread⟩ := exec_merges i s
  exact ⟨t, ht, hkeeps, fun j => hread j ▸ mergeByte_and_not_mask _ _ _⟩

/-! ### The response, from the read set -/

/-- Command `i` answers alike in `s` and in `s'`, on the ports its response drives (10_state.md R24). -/
def AnswersAlike (i : Instr) (s s' : State) : Prop :=
  ∃ t t', exec i s = .next t ∧ exec i s' = .next t' ∧ t.status = t'.status ∧ t.dout = t'.dout ∧
    (i = .blkRead → t.blkOut = t'.blkOut)

section
variable {i : Instr} {s s' u u' : State}

/-! The states before the response are variables here: to compare two of them the kernel would evaluate
the whole buffer. -/

theorem answersAlike_of_respond {d d' : Operand} (hd : d = d') (h : exec i s = .next (u.respond d))
    (h' : exec i s' = .next (u'.respond d')) (hi : i ≠ .blkRead) : AnswersAlike i s s' :=
  ⟨_, _, h, h', rfl, hd, fun hblk => absurd hblk hi⟩

theorem answersAlike_of_respondBlock {b b' : Block} (hb : b = b')
    (h : exec i s = .next (u.respondBlock b)) (h' : exec i s' = .next (u'.respondBlock b')) :
    AnswersAlike i s s' :=
  ⟨_, _, h, h', rfl, rfl, fun _ => hb⟩

theorem answersAlike_of_raiseIllegal (h : exec i s = .next u.raiseIllegal)
    (h' : exec i s' = .next u'.raiseIllegal) (hi : i ≠ .blkRead) : AnswersAlike i s s' :=
  ⟨_, _, h, h', rfl, rfl, fun hblk => absurd hblk hi⟩

end

/-- A response is made of the bytes of the read set (20_memory.md R46). -/
theorem exec_answersAlike (i : Instr) {s s' : State}
    (h : ∀ j, readsByte i j = true → s.readB j = s'.readB j) : AnswersAlike i s s' := by
  cases i with
  | blkRead => exact answersAlike_of_respondBlock (congrArg packLanes (funext fun j => h j rfl)) rfl rfl
  | byteRd idx =>
    by_cases hidx : idx.toNat < 188
    · have hbyte : s.readB ⟨idx.toNat, hidx⟩ = s'.readB ⟨idx.toNat, hidx⟩ :=
        h _ (by simp [readsByte])
      exact answersAlike_of_respond (congrArg (·.setWidth 64) hbyte) (exec_byteRd_of_lt s idx hidx)
        (exec_byteRd_of_lt s' idx hidx) nofun
    · exact answersAlike_of_raiseIllegal (exec_byteRd_of_ge s idx (not_lt.mp hidx))
        (exec_byteRd_of_ge s' idx (not_lt.mp hidx)) nofun
  | byteWr idx =>
    by_cases hidx : idx.toNat < 188
    · exact answersAlike_of_respond rfl (exec_byteWr_of_lt s idx hidx) (exec_byteWr_of_lt s' idx hidx)
        nofun
    · exact answersAlike_of_raiseIllegal (exec_byteWr_of_ge s idx (not_lt.mp hidx))
        (exec_byteWr_of_ge s' idx (not_lt.mp hidx)) nofun
  | syncOk =>
    exact answersAlike_of_respond (congrArg (fun b => flagResult (b == 0x47)) (h 0 rfl)) rfl rfl nofun
  | getTei | getPusi | getTp | getAfc | getPayload | getDisc | getRai | getEspi | getPcrf =>
    exact answersAlike_of_respond (congrArg (fun b => flagResult (bitsSet b _)) (h _ rfl)) rfl rfl nofun
  | getAfLen => exact answersAlike_of_respond (congrArg (·.setWidth 64) (h 4 rfl)) rfl rfl nofun
  | getSc | getCc =>
    refine answersAlike_of_respond ?_ rfl rfl nofun
    simp only [Memory.scrambling, Memory.continuity, State.buf_read, h 3 rfl]
  | getPid =>
    refine answersAlike_of_respond ?_ rfl rfl nofun
    simp only [Memory.pid, State.buf_read, h 1 rfl, h 2 rfl]
  | getPcrBase =>
    refine answersAlike_of_respond ?_ rfl rfl nofun
    simp only [Memory.pcrBase, State.buf_read, h 6 rfl, h 7 rfl, h 8 rfl, h 9 rfl, h 10 rfl]
  | getPcrExt =>
    refine answersAlike_of_respond ?_ rfl rfl nofun
    simp only [Memory.pcrExt, State.buf_read, h 10 rfl, h 11 rfl]
  -- A setter, NULL_PKT and BLK_LOAD answer DOUT = 0 whatever the buffer holds.
  | _ => exact answersAlike_of_respond rfl rfl rfl nofun

/-- Settles O51: the response is that of the read set, and the written bits are `writtenByte`'s, into
which no byte enters. -/
theorem resultsDependOnTheReadSetOnly : Obligations.ResultsDependOnTheReadSetOnly := by
  intro i s s' hcfg hdin hblk hread
  obtain ⟨t, t', ht, ht', hstatus, hdout, hout⟩ := exec_answersAlike i hread
  obtain ⟨-, hmerge⟩ := merges_of_exec ht
  obtain ⟨-, hmerge'⟩ := merges_of_exec ht'
  refine ⟨t, t', ht, ht', hstatus, hdout, hout, fun j => ?_⟩
  rw [hmerge, hmerge', ← hcfg, ← hdin, ← hblk, mergeByte_and_mask, mergeByte_and_mask]

/-! ### Commands in sequence -/

theorem State.Edits.wf {s u : State} (he : s.Edits u) (h : s.buf.wf) : u.buf.wf := by
  induction he with
  | refl => exact h
  | byte i v _ ih => exact Memory.wf_write _ i v ih
  | image f _ _ => exact Memory.wf_ofBytes f

theorem State.Answers.buf {u t : State} (ha : u.Answers t) : t.buf = u.buf := by
  cases ha <;> rfl

/-- A command keeps the canonical form, whatever the configuration. -/
theorem exec_wf {i : Instr} {s t : State} (he : exec i s = .next t) (h : s.buf.wf) : t.buf.wf := by
  obtain ⟨u, t', he', hedits, hanswers⟩ := exec_edits_answers i s
  obtain rfl : t' = t := Host.Outcome.next.inj (he'.symm.trans he)
  exact hanswers.buf ▸ hedits.wf h

/-- Settles O53: bits that one setter writes and the other does not come out the same in either order. -/
theorem disjointSettersCommute : Obligations.DisjointSettersCommute := by
  intro a b x y s _ _ hdisjoint
  obtain ⟨t, ht, htk, htr⟩ := exec_merges a (s.withDin x)
  obtain ⟨u, hu, -, hur⟩ := exec_merges b (t.withDin y)
  obtain ⟨t', ht', htk', htr'⟩ := exec_merges b (s.withDin y)
  obtain ⟨u', hu', -, hur'⟩ := exec_merges a (t'.withDin x)
  obtain ⟨hcfg, -, -, hblk⟩ := htk
  obtain ⟨hcfg', -, -, hblk'⟩ := htk'
  have hread : ∀ j, u.readB j = u'.readB j := fun j => by
    simpa [hur, hur', htr, htr', hcfg, hcfg', hblk, hblk'] using
      mergeByte_comm _ _ _ _ _ (hdisjoint j)
  refine ⟨t, u, t', u', ht, hu, ht', hu', hread, fun hwf => ?_⟩
  have ht : t.buf.wf := exec_wf ht hwf
  have ht' : t'.buf.wf := exec_wf ht' hwf
  exact Memory.eq_of_read _ _ (exec_wf hu ht) (exec_wf hu' ht') hread

/-- A reader leaves the buffer itself, not only its bytes. -/
theorem exec_reader_buf {i : Instr} {s t : State} (hi : isReader i = true) (he : exec i s = .next t) :
    t.buf = s.buf := by
  cases i with
  | nullPkt | blkLoad | byteWr | setTei | setPusi | setTp | setPid | setSc | setPayload | setCc
  | ccReset | setAfLen | setDisc | clrDisc | setRai | setEspi | setPcrf | setPcrBase | setPcrExt =>
    exact nomatch hi
  | byteRd idx =>
    simp only [exec, execByteRd] at he
    cases hidx : indexOperand idx <;> rw [hidx] at he <;> cases he <;> rfl
  | _ => cases he; rfl

/-- Settles O54: a masked write done twice is done once; a reader runs twice on the same inputs. -/
theorem commandsAreIdempotentAndReadersPure : Obligations.CommandsAreIdempotentAndReadersPure := by
  intro i s
  obtain ⟨t, ht, ⟨hcfg, -, hdin, hblk⟩, htr⟩ := exec_merges i s
  obtain ⟨u, hu, -, hur⟩ := exec_merges i t
  have hread : ∀ j, u.readB j = t.readB j := fun j => by
    rw [hur, hcfg, hdin, hblk, htr, mergeByte_self]
  refine ⟨t, u, ht, hu, hread, fun hwf => ?_, fun hi => ?_⟩
  · exact Memory.eq_of_read _ _ (exec_wf hu (exec_wf ht hwf)) (exec_wf ht hwf) hread
  · have hbuf : t.buf = s.buf := exec_reader_buf hi ht
    obtain ⟨u', t', hu', ht', hsame, hout⟩ := exec_sameResult i ⟨hcfg, hbuf, hdin, hblk⟩
    obtain rfl : u' = u := Host.Outcome.next.inj (hu'.symm.trans hu)
    obtain rfl : t' = t := Host.Outcome.next.inj (ht'.symm.trans ht)
    exact ⟨hbuf, hsame.dout, hout⟩

end Sys2Proof.Machine
end

section
/-! SUPPORT. Runs: a step stops only where hosts collide, and a queue of commands is served as performing
them one after the other (20_memory.md R50, R56; 70_reset_and_hazards.md R248). -/

namespace Sys2Proof.Machine

/-! ### When a step stops -/

theorem step_of_collide (s : State) (a b : Transaction) (rest : List HostEvent)
    (h : s.pending = .collide a b :: rest) : step s = .refused .concurrentHosts := by
  simp [step, h]

/-- A step answers a next state, or is refused on colliding hosts (R56; 60_exceptions.md R210). -/
theorem step_next_or_collide (s : State) :
    (∃ t, step s = .next t) ∨
      (∃ a b rest, s.pending = .collide a b :: rest) ∧ step s = .refused .concurrentHosts := by
  match hp : s.pending with
  | [] => exact .inl ⟨s, step_of_idle s hp⟩
  | .reset c :: rest => exact .inl ⟨_, step_of_reset s c rest hp⟩
  | .collide a b :: rest => exact .inr ⟨⟨a, b, rest, rfl⟩, step_of_collide s a b rest hp⟩
  | .command t :: rest =>
    cases hd : decode t.cmd with
    | legal i =>
      obtain ⟨-, u, hu, -, -⟩ := exec_edits_answers i (s.accept t rest)
      exact .inl ⟨u, (step_of_legal s t rest i hp hd).trans hu⟩
    | illegal c => exact .inl ⟨_, step_of_illegal s t rest c hp hd⟩

/-- Settles O11: every step that is not refused on colliding hosts answers a next state. -/
theorem stopsOnlyWhenHostsCollide : Obligations.StopsOnlyWhenHostsCollide := by
  refine ⟨step_of_collide, fun s r hr => ?_, fun s f hf => ?_⟩
  · obtain ⟨t, ht⟩ | ⟨hcollide, hrefused⟩ := step_next_or_collide s
    · exact nomatch ht.symm.trans hr
    · exact ⟨Host.Outcome.refused.inj (hr.symm.trans hrefused), hcollide⟩
  · obtain ⟨t, ht⟩ | ⟨-, hrefused⟩ := step_next_or_collide s
    · exact nomatch ht.symm.trans hf
    · exact nomatch hrefused.symm.trans hf

/-! ### Serving a queue -/

/-- One command from the queue and the same command performed on a state that differs in the queue, the
port and the count of free values alone. -/
theorem step_command_sameResult {s s' : State} (t : Transaction) (ts : List Transaction)
    (rest : List HostEvent) (hp : s.pending = .command t :: rest) (h : s.SameResult s') :
    ∃ u u', step s = .next u ∧ performInOrder (t :: ts) s' = performInOrder ts u' ∧
      u.SameResult u' ∧ u.pending = rest := by
  cases hd : decode t.cmd with
  | legal i =>
    have hin : (s.accept t rest).SameInputs ((s'.withDin t.din).withBlkIn t.blkIn) :=
      ⟨h.cfg, h.buf, rfl, rfl⟩
    obtain ⟨u, u', hu, hu', hsame, -⟩ := exec_sameResult i hin
    obtain ⟨-, hpending, -, -⟩ := exec_keeps hu
    exact ⟨u, u', (step_of_legal s t rest i hp hd).trans hu, performInOrder_legal t ts s' u' i hd hu',
      hsame, hpending⟩
  | illegal c =>
    exact ⟨_, _, step_of_illegal s t rest c hp hd, performInOrder_illegal t ts s' c hd,
      ⟨h.cfg, h.buf, rfl, rfl⟩, rfl⟩

/-- The queue-free performance may start in any state that agrees on configuration, buffer and
response: the two differ in the queue from the first command on. -/
theorem run_sameResult_performInOrder (ts : List Transaction) (rest : List HostEvent) {s s' : State}
    (hp : s.pending = ts.map .command ++ rest) (h : s.SameResult s') :
    ∃ u v, Host.Core.run Sys2Proof.core ts.length s = .next u ∧ performInOrder ts s' = .next v ∧
      u.SameResult v ∧ u.pending = rest ∧ u.cfg = s.cfg := by
  induction ts generalizing s s' with
  | nil => exact ⟨s, s', rfl, rfl, h, hp, rfl⟩
  | cons t ts ih =>
    obtain ⟨u, u', hu, hperform, hsame, hpu⟩ := step_command_sameResult t ts _ hp h
    obtain ⟨w, v, hw, hv, hwv, hpw, hcfg⟩ := ih hpu hsame
    exact ⟨w, v, (run_succ_of_step ts.length s u hu).trans hw, hperform.trans hv, hwv, hpw,
      hcfg.trans (step_cfg hu)⟩

/-- Settles O13: the run and the queue-free performance, both from `s`. -/
theorem presentedCommandsAreServedOneAStep : Obligations.PresentedCommandsAreServedOneAStep := by
  intro ts rest s hp
  obtain ⟨u, v, hu, hv, hsame, hpending, hcfg⟩ :=
    run_sameResult_performInOrder ts rest hp ⟨rfl, rfl, rfl, rfl⟩
  exact ⟨u, v, hu, hv, hsame.buf, hsame.status, hsame.dout, hpending, hcfg⟩

end Sys2Proof.Machine
end

section
/-! SUPPORT. The fields as numbers: what the field map of 10_state.md R29 decodes, as arithmetic on the
bytes, and how the bytes of a range stand side by side (20_memory.md R42, R43). -/

namespace Sys2Proof.Machine

/-! ### Masks, shifts and ORs as arithmetic -/

/-- Values that share no bit, one above the other, add up. -/
theorem toNat_shiftLeft_or {n a b : Nat} {x y : BitVec n} (hx : x.toNat = a) (hy : y.toNat = b)
    (k : Nat) (ha : a * 2 ^ k < 2 ^ n) (hb : b < 2 ^ k) :
    (x <<< k ||| y).toNat = a * 2 ^ k + b := by
  rw [BitVec.toNat_or, BitVec.toNat_shiftLeft, hx, hy, Nat.shiftLeft_eq, Nat.mod_eq_of_lt ha,
    Nat.mul_comm, Nat.two_pow_add_eq_or_of_lt hb]

/-- The `w` bits from bit `k` up, cut out by their mask and moved down. -/
theorem toNat_and_ushiftRight {b mask : Byte} (k w : Nat) (hmask : mask.toNat >>> k = 2 ^ w - 1) :
    ((b &&& mask) >>> k).toNat = b.toNat / 2 ^ k % 2 ^ w := by
  rw [BitVec.toNat_ushiftRight, BitVec.toNat_and, Nat.shiftRight_and_distrib, hmask,
    Nat.and_two_pow_sub_one_eq_mod, Nat.shiftRight_eq_div_pow]

/-- The low `w` bits, cut out by their mask. -/
theorem toNat_and_mask {b mask : Byte} (w : Nat) (hmask : mask.toNat = 2 ^ w - 1) :
    (b &&& mask).toNat = b.toNat % 2 ^ w := by
  rw [BitVec.toNat_and, hmask, Nat.and_two_pow_sub_one_eq_mod]

theorem setWidth_eq_ofNat {w n : Nat} {x : BitVec w} (h : x.toNat = n) :
    x.setWidth 64 = BitVec.ofNat 64 n := by
  rw [← h, BitVec.ofNat_toNat]

/-- A flag getter's result is its bit as a number (30_encoding.md R64). -/
theorem flagResult_bitsSet {b mask : Byte} (k : Nat) (hmask : mask = BitVec.twoPow 8 k) (hk : k < 8) :
    flagResult (bitsSet b mask) = BitVec.ofNat 64 (b.toNat / 2 ^ k % 2) := by
  have hbit : bitsSet b mask = b.toNat.testBit k := by
    rw [bitsSet, hmask, BitVec.and_twoPow, BitVec.testBit_toNat]
    cases b.getLsbD k
    · rfl
    · have hne : BitVec.twoPow 8 k ≠ 0 := fun h0 => by
        simpa [hk] using congrArg (·.getLsbD k) h0
      simpa using hne
  have hnum : ∀ c : Bool, flagResult c = BitVec.ofNat 64 c.toNat := by decide
  rw [hbit, hnum, Nat.toNat_testBit]

theorem Completes.congr_dout {i : Instr} {s : State} {d d' : Operand} {bytes : Index → Byte}
    (h : Completes i s d bytes) (hd : d = d') : Completes i s d' bytes :=
  hd ▸ h

/-! ### The fields of R29 as numbers -/

theorem Memory.toNat_pid (m : Memory) :
    m.pid.toNat = (m.read 1).toNat % 32 * 256 + (m.read 2).toNat := by
  have hhigh : ((m.read 1 &&& 0x1F#8).setWidth 13).toNat = (m.read 1).toNat % 32 :=
    (BitVec.toNat_setWidth_of_le (by decide)).trans (toNat_and_mask 5 rfl)
  exact toNat_shiftLeft_or hhigh (BitVec.toNat_setWidth_of_le (by decide)) 8 (by omega) (by omega)

theorem Memory.toNat_pcrExt (m : Memory) :
    m.pcrExt.toNat = (m.read 10).toNat % 2 * 256 + (m.read 11).toNat := by
  have hhigh : ((m.read 10 &&& 0x01#8).setWidth 9).toNat = (m.read 10).toNat % 2 :=
    (BitVec.toNat_setWidth_of_le (by decide)).trans (toNat_and_mask 1 rfl)
  exact toNat_shiftLeft_or hhigh (BitVec.toNat_setWidth_of_le (by decide)) 8 (by omega) (by omega)

theorem Memory.toNat_pcrBase (m : Memory) :
    m.pcrBase.toNat = (m.read 6).toNat * 2 ^ 25 + ((m.read 7).toNat * 2 ^ 17 +
      ((m.read 8).toNat * 2 ^ 9 + ((m.read 9).toNat * 2 ^ 1 + (m.read 10).toNat / 128))) := by
  have hbyte (j : Index) : ((m.read j).setWidth 33).toNat = (m.read j).toNat :=
    BitVec.toNat_setWidth_of_le (by decide)
  have h10 : ((m.read 10 >>> 7).setWidth 33).toNat = (m.read 10).toNat / 128 := by
    rw [BitVec.toNat_setWidth_of_le (by decide), BitVec.toNat_ushiftRight, Nat.shiftRight_eq_div_pow]
  have h9 := toNat_shiftLeft_or (hbyte 9) h10 1 (by omega) (by omega)
  have h8 := toNat_shiftLeft_or (hbyte 8) h9 9 (by omega) (by omega)
  have h7 := toNat_shiftLeft_or (hbyte 7) h8 17 (by omega) (by omega)
  have h6 := toNat_shiftLeft_or (hbyte 6) h7 25 (by omega) (by omega)
  simpa only [Memory.pcrBase, BitVec.or_assoc] using h6

theorem Memory.toNat_scrambling (m : Memory) : m.scrambling.toNat = (m.read 3).toNat / 64 := by
  have hbits : ((m.read 3 &&& 0xC0#8) >>> 6).toNat = (m.read 3).toNat / 2 ^ 6 % 2 ^ 2 :=
    toNat_and_ushiftRight 6 2 rfl
  rw [Memory.scrambling, BitVec.toNat_setWidth, hbits]
  omega

theorem Memory.toNat_continuity (m : Memory) : m.continuity.toNat = (m.read 3).toNat % 16 := by
  have hbits : (m.read 3 &&& 0x0F#8).toNat = (m.read 3).toNat % 2 ^ 4 := toNat_and_mask 4 rfl
  rw [Memory.continuity, BitVec.toNat_setWidth, hbits]
  omega

theorem Field.pcrReserved_value (m : Memory) :
    Field.pcrReserved.value m = BitVec.ofNat 64 ((m.read 10).toNat / 2 % 64) := by
  have hbits : ((m.read 10 &&& 0x7E#8) >>> 1).toNat = (m.read 10).toNat / 2 % 64 :=
    toNat_and_ushiftRight 1 6 rfl
  exact setWidth_eq_ofNat hbits

/-! ### MemRead and MemWrite -/

/-- `MemRead` of one byte more is 256 times the bytes before it, plus the byte (R42). -/
theorem Memory.toNat_readBytes_succ (m : Memory) (i n : Nat) (j : Index) (hj : i + n = j.val)
    (h : i + (n + 1) ≤ 188) :
    (m.readBytes i (n + 1) h).toNat =
      (m.readBytes i n (by omega)).toNat * 256 + (m.read j).toNat := by
  have hbyte : m.read ⟨i + n, by omega⟩ = m.read j := congrArg m.read (Fin.ext hj)
  rw [Memory.readBytes_succ, hbyte, BitVec.toNat_cast, BitVec.toNat_append, Nat.shiftLeft_eq,
    Nat.mul_comm, ← Nat.two_pow_add_eq_or_of_lt (BitVec.isLt _), Nat.mul_comm]

theorem Memory.toNat_readBytes_zero (m : Memory) (i : Nat) (h : i + 0 ≤ 188) :
    (m.readBytes i 0 h).toNat = 0 :=
  rfl

/-- A byte after a range is no part of what `MemRead` returns for it. -/
theorem Memory.readBytes_write_after (m : Memory) (i n : Nat) (h : i + n ≤ 188) (j : Index) (v : Byte)
    (hj : i + n ≤ j.val) : (m.write j v).readBytes i n h = m.readBytes i n h := by
  induction n with
  | zero => rfl
  | succ n ih =>
    have hne : (⟨i + n, by omega⟩ : Index) ≠ j := Fin.ne_of_lt (Nat.lt_of_succ_le hj)
    rw [Memory.readBytes_succ, Memory.readBytes_succ, ih _ (by omega), Memory.read_write, if_neg hne]

/-- `MemRead` returns what `MemWrite` wrote: the last byte is the low one of both (R11, R42). -/
theorem Memory.readBytes_writeBytes (m : Memory) (i n : Nat) (h : i + n ≤ 188) (v : BitVec (8 * n)) :
    (m.writeBytes i n h v).readBytes i n h = v := by
  induction n generalizing m with
  | zero => exact (BitVec.eq_nil v).symm
  | succ n ih =>
    rw [Memory.writeBytes, Memory.readBytes_succ, Memory.readBytes_write_after _ _ _ _ _ _ le_rfl, ih,
      Memory.read_write, if_pos rfl, BitVec.extractLsb'_append_extractLsb'_eq_extractLsb' (by simp)]
    ext k hk
    simp [hk]

theorem Memory.pid_eq_readBytes (m : Memory) :
    m.pid.toNat = (m.readBytes 1 2 (by omega)).toNat % 2 ^ 13 := by
  rw [m.toNat_pid, m.toNat_readBytes_succ 1 1 2 rfl, m.toNat_readBytes_succ 1 0 1 rfl,
    m.toNat_readBytes_zero]
  omega

theorem Memory.pcrBase_eq_readBytes (m : Memory) :
    m.pcrBase.toNat = (m.readBytes 6 5 (by omega)).toNat / 2 ^ 7 := by
  rw [m.toNat_pcrBase, m.toNat_readBytes_succ 6 4 10 rfl, m.toNat_readBytes_succ 6 3 9 rfl,
    m.toNat_readBytes_succ 6 2 8 rfl, m.toNat_readBytes_succ 6 1 7 rfl,
    m.toNat_readBytes_succ 6 0 6 rfl, m.toNat_readBytes_zero]
  omega

theorem Memory.pcrExt_eq_readBytes (m : Memory) :
    m.pcrExt.toNat = (m.readBytes 10 2 (by omega)).toNat % 2 ^ 9 := by
  rw [m.toNat_pcrExt, m.toNat_readBytes_succ 10 1 11 rfl, m.toNat_readBytes_succ 10 0 10 rfl,
    m.toNat_readBytes_zero]
  omega

/-- Settles O57: each multi-byte field is its range of bytes without the neighbours' bits, and a byte
written by MemWrite is the one MemRead appends. -/
theorem multiByteFieldsAreMostSignificantFirst : Obligations.MultiByteFieldsAreMostSignificantFirst := by
  refine ⟨fun s => ?_, Memory.readBytes_writeBytes⟩
  obtain ⟨-, -, -, hpid, -, -, -, -, -, -, -, -, -, hbase, hext⟩ := gettersReturnTheirMappedField s
  exact ⟨hpid.congr_dout (setWidth_eq_ofNat s.buf.pid_eq_readBytes),
    hbase.congr_dout (setWidth_eq_ofNat s.buf.pcrBase_eq_readBytes),
    hext.congr_dout (setWidth_eq_ofNat s.buf.pcrExt_eq_readBytes)⟩

/-! ### Whole bytes -/

theorem completes_byteRd (s : State) (idx : BitVec 8) (i : Index) (h : idx.toNat = i.val) :
    Completes (.byteRd idx) s (BitVec.ofNat 64 (s.readB i).toNat) s.readB := by
  have hi : (⟨idx.toNat, h ▸ i.isLt⟩ : Index) = i := Fin.ext h
  rw [BitVec.ofNat_toNat]
  exact completes_of_exec_eq_respond (hi ▸ exec_byteRd_of_lt s idx _)

/-- Settles O56: a byte is the sum of its fields' bits, each at its place. -/
theorem mixedBytesHoldTheirFieldsSideBySide : Obligations.MixedBytesHoldTheirFieldsSideBySide := by
  intro s
  obtain ⟨htei, hpusi, htp, hpid, hsc, hafc, hpayload, hcc, -, -, -, -, -, hbase, hext⟩ :=
    gettersReturnTheirMappedField s
  have hbyte (idx : BitVec 8) (i : Index) (h : idx.toNat = i.val) :
      Completes (.byteRd idx) s (BitVec.ofNat 64 (s.buf.read i).toNat) s.readB :=
    completes_byteRd s idx i h
  refine ⟨?byte1, ?byte3, ?byte10⟩
  case byte1 =>
    refine ⟨_, _, _, _, ?_, ?_, ?_, ?_, htei.congr_dout (flagResult_bitsSet 7 rfl (by decide)),
      hpusi.congr_dout (flagResult_bitsSet 6 rfl (by decide)),
      htp.congr_dout (flagResult_bitsSet 5 rfl (by decide)),
      hpid.congr_dout (setWidth_eq_ofNat s.buf.toNat_pid),
      (hbyte 1 1 rfl).congr_dout (congrArg (BitVec.ofNat 64) ?_)⟩ <;> omega
  case byte3 =>
    refine ⟨_, _, _, _, ?_, ?_, ?_, ?_,
      hsc.congr_dout (setWidth_eq_ofNat s.buf.toNat_scrambling),
      hafc.congr_dout (flagResult_bitsSet 5 rfl (by decide)),
      hpayload.congr_dout (flagResult_bitsSet 4 rfl (by decide)),
      hcc.congr_dout (setWidth_eq_ofNat s.buf.toNat_continuity),
      (hbyte 3 3 rfl).congr_dout (congrArg (BitVec.ofNat 64) ?_)⟩ <;> omega
  case byte10 =>
    refine ⟨_, _, _, ?_, ?_, ?_, hbase.congr_dout (setWidth_eq_ofNat s.buf.toNat_pcrBase),
      Field.pcrReserved_value _, hext.congr_dout (setWidth_eq_ofNat s.buf.toNat_pcrExt),
      (hbyte 10 10 rfl).congr_dout (congrArg (BitVec.ofNat 64) ?_)⟩ <;> omega

end Sys2Proof.Machine
end

section
/-! SUPPORT. The command word both ways: the decoder accepts exactly the words whose fields are those of a
well-formed command, and the fields determine the word (30_encoding.md R60 to R67). -/

namespace Sys2Proof.Machine

/-! ### The fields of a word as numbers -/

theorem toNat_opField (w : Word) : (opField w).toNat = opNumber w := by
  simp [opField, BitVec.extractLsb'_toNat]

theorem toNat_rsvField (w : Word) : (rsvField w).toNat = rsvNumber w := by
  simp [rsvField, BitVec.extractLsb'_toNat, Nat.shiftRight_eq_div_pow]

theorem toNat_idxField (w : Word) : (idxField w).toNat = idxNumber w := by
  rw [idxField, BitVec.extractLsb'_toNat, Nat.shiftRight_eq_div_pow]
  exact Nat.mod_eq_of_lt (by omega)

/-- The three fields are all of the word (R60). -/
theorem word_eq_of_fields {w w' : Word} (hop : opField w = opField w') (hrsv : rsvField w = rsvField w')
    (hidx : idxField w = idxField w') : w = w' := by
  have hopN := congrArg BitVec.toNat hop
  have hrsvN := congrArg BitVec.toNat hrsv
  have hidxN := congrArg BitVec.toNat hidx
  rw [toNat_opField, toNat_opField] at hopN
  rw [toNat_rsvField, toNat_rsvField] at hrsvN
  rw [toNat_idxField, toNat_idxField] at hidxN
  exact BitVec.eq_of_toNat_eq (by simp only [opNumber, rsvNumber, idxNumber] at *; omega)

/-! ### The opcode map -/

/-- The commands of format X, which carry an index (R62). -/
def isIndexed : Instr → Bool
  | .byteRd _ | .byteWr _ => true
  | _ => false

theorem wf_iff (i : Instr) : i.wf = true ↔ (isIndexed i = true → (indexOf i).toNat ≤ 187) := by
  cases i <;> simp [Instr.wf, isIndexed, indexOf]

theorem indexOf_of_not_isIndexed {i : Instr} (h : isIndexed i = false) : indexOf i = 0 := by
  cases i with
  | byteRd idx | byteWr idx => exact nomatch h
  | _ => rfl

/-- The rows of format X are the OP column of the indexed commands (R62, R65). -/
theorem formatX_eq_some_iff (op : BitVec 6) (idx : BitVec 8) (i : Instr) :
    formatX op idx = some i ↔ isIndexed i = true ∧ op = opcodeOf i ∧ idx = indexOf i := by
  constructor
  · intro h
    unfold formatX at h
    split at h
    next hop => cases h; exact ⟨rfl, BitVec.eq_of_toNat_eq hop, rfl⟩
    next hop => cases h; exact ⟨rfl, BitVec.eq_of_toNat_eq hop, rfl⟩
    next => exact nomatch h
  · rintro ⟨hi, rfl, rfl⟩
    cases i with
    | byteRd idx | byteWr idx => rfl
    | _ => exact nomatch hi

/-- Every row of format N is the OP column of a command without an index, checked row by row. -/
theorem formatN_rows (op : BitVec 6) :
    ∀ i ∈ formatN op, isIndexed i = false ∧ op = opcodeOf i := by
  revert op
  decide

/-- The rows of format N are the OP column of the other commands (R61, R65). -/
theorem formatN_eq_some_iff (op : BitVec 6) (i : Instr) :
    formatN op = some i ↔ isIndexed i = false ∧ op = opcodeOf i := by
  refine ⟨formatN_rows op i, ?_⟩
  rintro ⟨hi, rfl⟩
  cases i with
  | byteRd idx | byteWr idx => exact nomatch hi
  | _ => rfl

theorem formatX_eq_none_iff (op : BitVec 6) (idx : BitVec 8) :
    formatX op idx = none ↔ ¬ indexedOp op.toNat := by
  unfold formatX
  split <;> simp_all [indexedOp]

/-- The opcodes without a row in format N, checked row by row (R61, R66 (a)). -/
theorem formatN_eq_none_iff (op : BitVec 6) :
    formatN op = none ↔ unassignedOp op.toNat ∨ indexedOp op.toNat := by
  revert op
  decide

theorem indexedOp_opcodeOf (i : Instr) : indexedOp (opcodeOf i).toNat ↔ isIndexed i = true := by
  cases i <;> simp [indexedOp, opcodeOf, isIndexed]

/-! ### The words the decoder accepts -/

/-- R67's pseudocode on acceptance: a row of either format, with the index that format allows. -/
theorem decode_eq_legal_iff_row (w : Word) (i : Instr) :
    decode w = .legal i ↔ rsvField w = 0 ∧
      (formatX (opField w) (idxField w) = some i ∧ (idxField w).toNat ≤ 187 ∨
        formatX (opField w) (idxField w) = none ∧ formatN (opField w) = some i ∧ idxField w = 0) := by
  unfold decode
  split
  next hrsv => simp_all
  next hrsv =>
    split
    next j hx => split <;> simp_all
    next hx =>
      split
      next j hn => split <;> simp_all
      next hn => simp_all

/-- The decoder accepts a word as `i` exactly if its fields are those of the well-formed command `i`. -/
theorem decode_eq_legal_iff (w : Word) (i : Instr) :
    decode w = .legal i ↔
      i.wf = true ∧ opField w = opcodeOf i ∧ rsvField w = 0 ∧ idxField w = indexOf i := by
  rw [decode_eq_legal_iff_row, formatX_eq_some_iff, formatX_eq_none_iff, formatN_eq_some_iff, wf_iff]
  cases hi : isIndexed i with
  | true =>
    simp only [true_and, forall_const, Bool.true_eq_false, false_and, and_false, or_false]
    constructor
    · rintro ⟨hrsv, ⟨hop, hidx⟩, hle⟩
      exact ⟨hidx ▸ hle, hop, hrsv, hidx⟩
    · rintro ⟨hle, hop, hrsv, hidx⟩
      exact ⟨hrsv, ⟨hop, hidx⟩, hidx ▸ hle⟩
  | false =>
    have hzero := indexOf_of_not_isIndexed hi
    have hnotX : ¬ indexedOp (opcodeOf i).toNat := by simp [indexedOp_opcodeOf, hi]
    constructor
    · rintro ⟨hrsv, ⟨⟨hx, -⟩, -⟩ | ⟨-, ⟨-, hop⟩, hidx⟩⟩
      · exact nomatch hx
      · exact ⟨nofun, hop, hrsv, hidx.trans hzero.symm⟩
    · rintro ⟨-, hop, hrsv, hidx⟩
      exact ⟨hrsv, .inr ⟨hop ▸ hnotX, ⟨rfl, hop⟩, hidx.trans hzero⟩⟩

/-- Settles O1: the encoded word has the fields of the command it was built from. -/
theorem decodeOfEncodeIsTheInstruction : Obligations.DecodeOfEncodeIsTheInstruction :=
  fun i hi => (decode_eq_legal_iff _ i).mpr ⟨hi, Laws.WordShape.of_fields i⟩

/-- Settles O2: the word and the encoded word have the same fields. -/
theorem legalWordReencodesToItself : Obligations.LegalWordReencodesToItself := by
  intro w i h
  obtain ⟨hwf, hop, hrsv, hidx⟩ := (decode_eq_legal_iff w i).mp h
  obtain ⟨hop', hrsv', hidx'⟩ := Laws.WordShape.of_fields i
  exact ⟨hwf, word_eq_of_fields (hop'.trans hop.symm) (hrsv'.trans hrsv.symm) (hidx'.trans hidx.symm)⟩

/-- Settles O5: each word evaluated. -/
theorem sampleWordsDecodeAsTheMapSays : Obligations.SampleWordsDecodeAsTheMapSays := by
  unfold Obligations.SampleWordsDecodeAsTheMapSays
  decide

/-! ### The words the decoder rejects -/

theorem decode_illegal_iff_not_legal (w : Word) :
    (∃ c, decode w = .illegal c) ↔ ¬ ∃ i, decode w = .legal i := by
  cases decode w <;> simp

/-- R67's pseudocode on rejection. -/
theorem decode_illegal_iff_row (w : Word) :
    (∃ c, decode w = .illegal c) ↔ rsvField w ≠ 0 ∨
      (¬ formatX (opField w) (idxField w) = none ∧ 187 < (idxField w).toNat) ∨
      (formatX (opField w) (idxField w) = none ∧ (formatN (opField w) = none ∨ idxField w ≠ 0)) := by
  simp only [decode_illegal_iff_not_legal, decode_eq_legal_iff_row, exists_and_left, not_and_or]
  refine or_congr_right ?_
  cases formatX (opField w) (idxField w) with
  | some j => simp
  | none => cases formatN (opField w) <;> simp

/-- R66 on the fields as numbers: an opcode without a row in either format is unassigned. -/
theorem decode_illegal_iff (w : Word) : (∃ c, decode w = .illegal c) ↔ IllegalWord w := by
  have hidx : idxField w ≠ 0 ↔ idxNumber w ≠ 0 := by
    rw [← toNat_idxField]; exact BitVec.toNat_inj.symm.not
  have hrsv : rsvField w ≠ 0 ↔ rsvNumber w ≠ 0 := by
    rw [← toNat_rsvField]; exact BitVec.toNat_inj.symm.not
  rw [decode_illegal_iff_row, hrsv, hidx, formatX_eq_none_iff, formatN_eq_none_iff, toNat_opField,
    toNat_idxField]
  omega

/-- Settles O3: the decoder's rejection is R66's, and a rejected word takes the step of an illegal word. -/
theorem wordsAreIllegalExactlyAsRule66Says : Obligations.WordsAreIllegalExactlyAsRule66Says := by
  refine ⟨decode_illegal_iff, fun s t rest hp hw => ?_⟩
  obtain ⟨c, hc⟩ := (decode_illegal_iff t.cmd).mpr hw
  exact ⟨_, step_of_illegal s t rest c hp hc, rfl, rfl, rfl, rfl, rfl⟩

/-! ### Counting the legal words -/

/-- The commands of format N, in the order of their opcodes (R65). -/
def formatNInstrs : List Instr := (List.finRange 64).filterMap fun op => formatN (.ofFin op)

/-- The well-formed commands: 35 of format N and two of format X with 188 indices each (R67). -/
def legalInstrs : List Instr :=
  formatNInstrs ++ ((List.finRange 188).map (fun j => .byteRd (.ofNat 8 j.val)) ++
    (List.finRange 188).map fun j => .byteWr (.ofNat 8 j.val))

theorem mem_formatNInstrs (i : Instr) : i ∈ formatNInstrs ↔ isIndexed i = false := by
  simp only [formatNInstrs, List.mem_filterMap, List.mem_finRange, true_and, formatN_eq_some_iff]
  exact ⟨fun ⟨_, hi, _⟩ => hi, fun hi => ⟨(opcodeOf i).toFin, hi, rfl⟩⟩

theorem mem_indices (idx : BitVec 8) :
    (∃ j : Index, BitVec.ofNat 8 j.val = idx) ↔ idx.toNat ≤ 187 := by
  constructor
  · rintro ⟨j, rfl⟩
    rw [BitVec.toNat_ofNat]
    omega
  · intro h
    exact ⟨⟨idx.toNat, by omega⟩, BitVec.eq_of_toNat_eq (by simp)⟩

theorem mem_legalInstrs (i : Instr) : i ∈ legalInstrs ↔ i.wf = true := by
  cases i <;> simp [legalInstrs, mem_formatNInstrs, isIndexed, Instr.wf, mem_indices]

theorem ofNat_index_injective : Function.Injective fun j : Index => BitVec.ofNat 8 j.val := by
  intro j k h
  have := congrArg BitVec.toNat h
  simp only [BitVec.toNat_ofNat] at this
  exact Fin.ext (by omega)

theorem nodup_formatNInstrs : formatNInstrs.Nodup := by
  refine (List.nodup_finRange 64).filterMap fun op op' i hi hi' => ?_
  obtain ⟨-, hop⟩ := (formatN_eq_some_iff _ _).mp hi
  obtain ⟨-, hop'⟩ := (formatN_eq_some_iff _ _).mp hi'
  exact congrArg BitVec.toFin (hop.trans hop'.symm)

theorem nodup_legalInstrs : legalInstrs.Nodup := by
  have hRd := (List.nodup_finRange 188).map fun j k h => ofNat_index_injective (Instr.byteRd.inj h)
  have hWr := (List.nodup_finRange 188).map fun j k h => ofNat_index_injective (Instr.byteWr.inj h)
  refine nodup_formatNInstrs.append (hRd.append hWr ?_) ?_
  · simp [List.Disjoint]
  · intro i hN hX
    rw [mem_formatNInstrs] at hN
    obtain ⟨j, -, rfl⟩ | ⟨j, -, rfl⟩ := (List.mem_append.mp hX).imp List.mem_map.mp List.mem_map.mp
    · exact nomatch hN
    · exact nomatch hN

theorem length_legalInstrs : legalInstrs.length = 411 := by
  have hN : formatNInstrs.length = 35 := by decide
  simp [legalInstrs, hN]

/-- Settles O4: the words of the 411 well-formed commands. -/
theorem exactlyFourHundredElevenLegalWords : Obligations.ExactlyFourHundredElevenLegalWords := by
  refine ⟨legalInstrs.map encode, by rw [List.length_map, length_legalInstrs], ?_, fun w => ?_⟩
  · refine nodup_legalInstrs.map_on fun i hi j hj hij => ?_
    have hi' := decodeOfEncodeIsTheInstruction i ((mem_legalInstrs i).mp hi)
    have hj' := decodeOfEncodeIsTheInstruction j ((mem_legalInstrs j).mp hj)
    exact Decoded.legal.inj (hi'.symm.trans (hij ▸ hj'))
  · simp only [List.mem_map, mem_legalInstrs]
    constructor
    · rintro ⟨i, hi, rfl⟩
      exact ⟨i, decodeOfEncodeIsTheInstruction i hi⟩
    · rintro ⟨i, hi⟩
      exact ⟨i, legalWordReencodesToItself w i hi⟩

end Sys2Proof.Machine
end

section
/-! SUPPORT. Assembler lines served one after the other, and what the value setters leave in their fields:
the pseudo-instructions of 30_encoding.md R70. -/

namespace Sys2Proof.Machine

/-! ### The bytes a command leaves, from its write set -/

section
variable {i : Instr} {s t : State} (he : exec i s = .next t) (j : Index)
include he

theorem readB_of_exec :
    t.readB j = mergeByte (s.readB j) (writeMask s.cfg s.din i j)
      (writtenByte s.cfg s.din s.blkIn i j) := by
  obtain ⟨-, hread⟩ := merges_of_exec he
  exact hread j

theorem readB_of_exec_of_unwritten (hmask : writeMask s.cfg s.din i j = 0) :
    t.readB j = s.readB j := by
  rw [readB_of_exec he, hmask]
  exact mergeByte_zero _ _

theorem readB_of_exec_of_overwritten (hmask : writeMask s.cfg s.din i j = 0xFF) :
    t.readB j = writtenByte s.cfg s.din s.blkIn i j := by
  rw [readB_of_exec he, hmask]
  exact mergeByte_full _ _

end

theorem mergeByte_and_of_subset (old new : Byte) {mask sub : Byte} (h : mask &&& sub = sub) :
    mergeByte old mask new &&& sub = new &&& sub := by
  rw [← h, ← BitVec.and_assoc, mergeByte_and_mask, BitVec.and_assoc]

theorem mergeByte_and_of_disjoint (old new : Byte) {mask sub : Byte} (h : mask &&& sub = 0) :
    mergeByte old mask new &&& sub = old &&& sub := by
  have hsub : ~~~mask &&& sub = sub := by
    ext k hk
    have hk' : (mask[k] && sub[k]) = false := by simpa using congrArg (·[k]) h
    cases hm : mask[k] <;> simp_all
  rw [← hsub, ← BitVec.and_assoc, mergeByte_and_not_mask, BitVec.and_assoc]

/-- The low `w` bits of a byte into which just those were written. -/
theorem toNat_mergeByte_mod (old new : Byte) {mask : Byte} (w : Nat) (hmask : mask.toNat = 2 ^ w - 1) :
    (mergeByte old mask new).toNat % 2 ^ w = new.toNat % 2 ^ w := by
  rw [← toNat_and_mask w hmask, mergeByte_and_mask, toNat_and_mask w hmask]

/-- Bytes with the same top bit, as numbers. -/
theorem toNat_div_128_eq {b c : Byte} (h : b &&& 0x80 = c &&& 0x80) :
    b.toNat / 128 = c.toNat / 128 := by
  have htop (x : Byte) : ((x &&& 0x80#8) >>> 7).toNat = x.toNat / 2 ^ 7 % 2 ^ 1 :=
    toNat_and_ushiftRight 7 1 rfl
  have hb := htop b
  have hc := htop c
  rw [show b &&& 0x80#8 = c &&& 0x80#8 from h] at hb
  omega

/-! ### Operands as numbers -/

theorem toNat_pidOperand (d : Operand) : (pidOperand d).toNat = d.toNat % 8192 := by
  simp [pidOperand, BitVec.extractLsb'_toNat]

theorem toNat_ccOperand (d : Operand) : (ccOperand d).toNat = d.toNat % 16 := by
  simp [ccOperand, BitVec.extractLsb'_toNat]

theorem toNat_pcrBaseOperand (d : Operand) : (pcrBaseOperand d).toNat = d.toNat % 2 ^ 33 := by
  simp [pcrBaseOperand, BitVec.extractLsb'_toNat]

theorem toNat_pcrExtOperand (d : Operand) : (pcrExtOperand d).toNat = d.toNat % 512 := by
  simp [pcrExtOperand, BitVec.extractLsb'_toNat]

/-! ### What the value setters leave in their fields -/

section
variable {s t : State}

/-- SET_PID, then GET_PID's value (41_header.md R109, R110). -/
theorem toNat_pid_of_exec_setPid (he : exec .setPid s = .next t) :
    t.buf.pid.toNat = s.din.toNat % 8192 := by
  have h1 : t.readB 1 = mergeByte (s.readB 1) 0x1F ((pidOperand s.din >>> 8).setWidth 8) :=
    readB_of_exec he 1
  have h2 : t.readB 2 = (pidOperand s.din).setWidth 8 := readB_of_exec_of_overwritten he 2 rfl
  have hlow : (t.readB 1).toNat % 32 = ((pidOperand s.din >>> 8).setWidth 8).toNat % 32 :=
    h1 ▸ toNat_mergeByte_mod _ _ 5 rfl
  rw [Memory.toNat_pid, State.buf_read, State.buf_read, hlow, h2, ← toNat_pidOperand]
  simp only [BitVec.toNat_setWidth, BitVec.toNat_ushiftRight, Nat.shiftRight_eq_div_pow]
  omega

/-- SET_CC, then GET_CC's value (R116, R117). -/
theorem toNat_continuity_of_exec_setCc (he : exec .setCc s = .next t) :
    t.buf.continuity.toNat = s.din.toNat % 16 := by
  have h3 : t.readB 3 = mergeByte (s.readB 3) 0x0F ((ccOperand s.din).setWidth 8) :=
    readB_of_exec he 3
  have hlow : (t.readB 3).toNat % 16 = ((ccOperand s.din).setWidth 8).toNat % 16 :=
    h3 ▸ toNat_mergeByte_mod _ _ 4 rfl
  rw [Memory.toNat_continuity, State.buf_read, hlow, ← toNat_ccOperand, BitVec.toNat_setWidth]
  omega

/-- SET_CC writes no bit of the PID (R116). -/
theorem pid_of_exec_setCc (he : exec .setCc s = .next t) : t.buf.pid = s.buf.pid := by
  have h1 : t.readB 1 = s.readB 1 := readB_of_exec_of_unwritten he 1 rfl
  have h2 : t.readB 2 = s.readB 2 := readB_of_exec_of_unwritten he 2 rfl
  simp only [Memory.pid, State.buf_read, h1, h2]

/-- SET_PCR_BASE, then GET_PCR_BASE's value (43_pcr.md R170, R171). -/
theorem toNat_pcrBase_of_exec_setPcrBase (he : exec .setPcrBase s = .next t) :
    t.buf.pcrBase.toNat = s.din.toNat % 2 ^ 33 := by
  have h6 : t.readB 6 = (pcrBaseOperand s.din).extractLsb' 25 8 :=
    readB_of_exec_of_overwritten he 6 rfl
  have h7 : t.readB 7 = (pcrBaseOperand s.din).extractLsb' 17 8 :=
    readB_of_exec_of_overwritten he 7 rfl
  have h8 : t.readB 8 = (pcrBaseOperand s.din).extractLsb' 9 8 :=
    readB_of_exec_of_overwritten he 8 rfl
  have h9 : t.readB 9 = (pcrBaseOperand s.din).extractLsb' 1 8 :=
    readB_of_exec_of_overwritten he 9 rfl
  have h10 : t.readB 10 = mergeByte (s.readB 10) 0xFE
      (((pcrBaseOperand s.din).extractLsb' 0 1).setWidth 8 <<< 7 ||| 0x7E#8) :=
    readB_of_exec he 10
  have htop : (t.readB 10).toNat / 128 = (pcrBaseOperand s.din).toNat % 2 := by
    have hbit : ∀ b : BitVec 1, (b.setWidth 8 <<< 7 ||| 0x7E#8).toNat / 128 = b.toNat := by decide
    rw [h10, toNat_div_128_eq (mergeByte_and_of_subset _ _ rfl), hbit, BitVec.extractLsb'_toNat]
    rfl
  rw [Memory.toNat_pcrBase]
  simp only [State.buf_read, htop, h6, h7, h8, h9, ← toNat_pcrBaseOperand, BitVec.extractLsb'_toNat,
    Nat.shiftRight_eq_div_pow]
  omega

/-- SET_PCR_EXT, then GET_PCR_EXT's value (R172, R173). -/
theorem toNat_pcrExt_of_exec_setPcrExt (he : exec .setPcrExt s = .next t) :
    t.buf.pcrExt.toNat = s.din.toNat % 512 := by
  have h10 : t.readB 10 = mergeByte (s.readB 10) 0x01 ((pcrExtOperand s.din >>> 8).setWidth 8) :=
    readB_of_exec he 10
  have h11 : t.readB 11 = (pcrExtOperand s.din).setWidth 8 :=
    readB_of_exec_of_overwritten he 11 rfl
  have hlow : (t.readB 10).toNat % 2 = ((pcrExtOperand s.din >>> 8).setWidth 8).toNat % 2 :=
    h10 ▸ toNat_mergeByte_mod _ _ 1 rfl
  rw [Memory.toNat_pcrExt, State.buf_read, State.buf_read, hlow, h11, ← toNat_pcrExtOperand]
  simp only [BitVec.toNat_setWidth, BitVec.toNat_ushiftRight, Nat.shiftRight_eq_div_pow]
  omega

/-- SET_PCR_EXT writes no bit of the base (R172). -/
theorem toNat_pcrBase_of_exec_setPcrExt (he : exec .setPcrExt s = .next t) :
    t.buf.pcrBase.toNat = s.buf.pcrBase.toNat := by
  have h6 : t.readB 6 = s.readB 6 := readB_of_exec_of_unwritten he 6 rfl
  have h7 : t.readB 7 = s.readB 7 := readB_of_exec_of_unwritten he 7 rfl
  have h8 : t.readB 8 = s.readB 8 := readB_of_exec_of_unwritten he 8 rfl
  have h9 : t.readB 9 = s.readB 9 := readB_of_exec_of_unwritten he 9 rfl
  have h10 : t.readB 10 = mergeByte (s.readB 10) 0x01 ((pcrExtOperand s.din >>> 8).setWidth 8) :=
    readB_of_exec he 10
  have htop := toNat_div_128_eq (mergeByte_and_of_disjoint (s.readB 10)
    ((pcrExtOperand s.din >>> 8).setWidth 8) (mask := 0x01) (sub := 0x80) rfl)
  simp only [Memory.toNat_pcrBase, State.buf_read, h6, h7, h8, h9, h10, htop]

/-- A buffer with the sync byte passes SYNC_OK (R102). -/
theorem completes_syncOk_of_sync (h : s.readB 0 = 0x47) : Completes .syncOk s 1 s.readB :=
  (completes_of_exec_eq_respond rfl).congr_dout (by rw [h]; rfl)

end

/-! ### Lines in a queue -/

/-- A line's command is performed in one step and leaves the lines after it pending (R69, R50). -/
theorem step_of_line {s : State} {rest : List HostEvent} (i : Instr) (imm : Option Operand)
    (hi : i.wf = true) (hp : s.pending = .command (assemble (.command i imm)) :: rest) :
    ∃ t, step s = .next t ∧ exec i (s.accept (assemble (.command i imm)) rest) = .next t ∧
      t.pending = rest := by
  obtain ⟨-, t, ht, -, -⟩ := exec_edits_answers i (s.accept (assemble (.command i imm)) rest)
  obtain ⟨-, hpending, -, -⟩ := exec_keeps ht
  exact ⟨t, (step_of_legal s _ rest i hp (decodeOfEncodeIsTheInstruction i hi)).trans ht, ht, hpending⟩

theorem State.issue_pending_of_idle {s : State} (hp : s.pending = []) (lines : List AsmLine) :
    (s.issue lines).pending = lines.map fun l => .command (assemble l) := by
  simp [State.issue, hp]

/-! ### The pseudo-instructions -/

section
variable {s : State} (hp : s.pending = [])
include hp

theorem setPcr_writes_base_and_extension (base ext : Operand) :
    ∃ t, Host.Core.run Sys2Proof.core 2 (s.issue (Pseudo.setPcr base ext).expand) = .next t ∧
      t.pending = [] ∧ t.readB 5 = s.readB 5 ||| 0x10 ∧
      Completes .getPcrBase t (BitVec.ofNat 64 (base.toNat % 2 ^ 33)) t.readB ∧
      Completes .getPcrExt t (BitVec.ofNat 64 (ext.toNat % 512)) t.readB ∧
      ∀ j : Index, j.val < 5 ∨ 11 < j.val → t.readB j = s.readB j := by
  obtain ⟨u, hstep, hbase, hpu⟩ :=
    step_of_line .setPcrBase (some base) rfl
      (State.issue_pending_of_idle hp (Pseudo.setPcr base ext).expand)
  obtain ⟨t, hstep', hext, hpt⟩ := step_of_line .setPcrExt (some ext) rfl hpu
  have hbaseValue : t.buf.pcrBase.toNat = base.toNat % 2 ^ 33 :=
    (toNat_pcrBase_of_exec_setPcrExt hext).trans (toNat_pcrBase_of_exec_setPcrBase hbase)
  have hextValue : t.buf.pcrExt.toNat = ext.toNat % 512 := toNat_pcrExt_of_exec_setPcrExt hext
  refine ⟨t, (run_succ_of_step 1 _ u hstep).trans (run_succ_of_step 0 u t hstep'), hpt, ?_,
    (completes_of_exec_eq_respond rfl).congr_dout (setWidth_eq_ofNat hbaseValue),
    (completes_of_exec_eq_respond rfl).congr_dout (setWidth_eq_ofNat hextValue), fun j hj => ?_⟩
  · calc t.readB 5 = u.readB 5 := readB_of_exec_of_unwritten hext 5 rfl
      _ = mergeByte (s.readB 5) 0x10 0xFF := readB_of_exec hbase 5
      _ = s.readB 5 ||| 0x10 := mergeByte_ones _ _
  · have hne (k : Index) (hk : 5 ≤ k.val ∧ k.val ≤ 11) : j ≠ k := by rintro rfl; omega
    calc t.readB j = u.readB j := readB_of_exec_of_unwritten hext j (by
          simp [writeMask, maskAt, hne])
      _ = s.readB j := readB_of_exec_of_unwritten hbase j (by simp [writeMask, maskAt, hne])

theorem getPcr_answers_base_then_extension :
    ∃ t u, step (s.issue Pseudo.getPcr.expand) = .next t ∧ step t = .next u ∧ u.pending = [] ∧
      t.status = 0b00#2 ∧ Completes .getPcrBase s t.dout s.readB ∧
      u.status = 0b00#2 ∧ Completes .getPcrExt s u.dout s.readB ∧ u.buf = s.buf := by
  obtain ⟨t, hstep, hbase, hpt⟩ :=
    step_of_line .getPcrBase none rfl
      (State.issue_pending_of_idle hp Pseudo.getPcr.expand)
  obtain ⟨u, hstep', hext, hpu⟩ := step_of_line .getPcrExt none rfl hpt
  cases hbase
  cases hext
  exact ⟨_, _, hstep, hstep', hpu, rfl, completes_of_exec_eq_respond rfl, rfl,
    completes_of_exec_eq_respond rfl, rfl⟩

theorem frame_leaves_the_named_packet (pid cc : Operand) :
    ∃ t, Host.Core.run Sys2Proof.core 3 (s.issue (Pseudo.frame pid cc).expand) = .next t ∧
      t.pending = [] ∧ Completes .syncOk t 1 t.readB ∧
      Completes .getPid t (BitVec.ofNat 64 (pid.toNat % 8192)) t.readB ∧
      Completes .getCc t (BitVec.ofNat 64 (cc.toNat % 16)) t.readB ∧
      ∀ j : Index, 4 ≤ j.val → t.readB j = 0xFF := by
  obtain ⟨u, hstep, hnull, hpu⟩ :=
    step_of_line .nullPkt none rfl
      (State.issue_pending_of_idle hp (Pseudo.frame pid cc).expand)
  obtain ⟨v, hstep', hpid, hpv⟩ := step_of_line .setPid (some pid) rfl hpu
  obtain ⟨t, hstep'', hcc, hpt⟩ := step_of_line .setCc (some cc) rfl hpv
  have hread (j : Index) (h1 : j ≠ 1) (h2 : j ≠ 2) (h3 : j ≠ 3) : t.readB j = nullByte s.cfg j :=
    calc t.readB j = v.readB j := readB_of_exec_of_unwritten hcc j (by simp [writeMask, maskAt, h3])
      _ = u.readB j := readB_of_exec_of_unwritten hpid j (by simp [writeMask, maskAt, h1, h2])
      _ = nullByte s.cfg j := readB_of_exec_of_overwritten hnull j rfl
  have hpidValue : t.buf.pid.toNat = pid.toNat % 8192 :=
    (congrArg BitVec.toNat (pid_of_exec_setCc hcc)).trans (toNat_pid_of_exec_setPid hpid)
  have hccValue : t.buf.continuity.toNat = cc.toNat % 16 := toNat_continuity_of_exec_setCc hcc
  refine ⟨t, (run_succ_of_step 2 _ u hstep).trans ((run_succ_of_step 1 u v hstep').trans
      (run_succ_of_step 0 v t hstep'')), hpt,
    completes_syncOk_of_sync (hread 0 nofun nofun nofun),
    (completes_of_exec_eq_respond rfl).congr_dout (setWidth_eq_ofNat hpidValue),
    (completes_of_exec_eq_respond rfl).congr_dout (setWidth_eq_ofNat hccValue), fun j hj => ?_⟩
  have hne (k : Index) (hk : k.val ≤ 3) : j ≠ k := by rintro rfl; omega
  rw [hread j (hne 1 (by decide)) (hne 2 (by decide)) (hne 3 (by decide)), nullByte_eq_ite]
  simp [hne]

theorem setSync_writes_the_sync_byte :
    ∃ t, Host.Core.run Sys2Proof.core 1 (s.issue Pseudo.setSync.expand) = .next t ∧
      t.pending = [] ∧ Completes .syncOk t 1 t.readB ∧
      ∀ j : Index, j ≠ 0 → t.readB j = s.readB j := by
  obtain ⟨t, hstep, hwrite, hpt⟩ :=
    step_of_line (.byteWr 0) (some 0x47) rfl
      (State.issue_pending_of_idle hp Pseudo.setSync.expand)
  exact ⟨t, run_succ_of_step 0 _ t hstep, hpt,
    completes_syncOk_of_sync (readB_of_exec_of_overwritten hwrite 0 rfl), fun j hj =>
      readB_of_exec_of_unwritten hwrite j (if_neg (hj <| Fin.ext ·))⟩

end

/-- Settles O60: each expansion is served line by line; CHAIN is the serving of any queue (O13). -/
theorem pseudoInstructionsDoWhatTheyName : Obligations.PseudoInstructionsDoWhatTheyName := by
  refine ⟨fun _ base ext hp => setPcr_writes_base_and_extension hp base ext,
    fun _ hp => getPcr_answers_base_then_extension hp,
    fun _ pid cc hp => frame_leaves_the_named_packet hp pid cc,
    fun _ hp => setSync_writes_the_sync_byte hp, fun s lines hp => ?_⟩
  have hpending : (s.issue lines).pending = (lines.map assemble).map .command ++ [] := by
    simp [State.issue_pending_of_idle hp]
  rw [← List.length_map (f := assemble)]
  exact presentedCommandsAreServedOneAStep _ _ _ hpending

end Sys2Proof.Machine
end

section
/-! SUPPORT. What a command's write set leaves alone: the fields that share no bit with it
(41_header.md R101), and which commands can change or clear a given bit. -/

namespace Sys2Proof.Machine

/-! ### Words -/

theorem encodes_of_encode_eq {w : Word} {i : Instr} (hwf : i.wf = true) (h : encode i = w) :
    Encodes w i :=
  ⟨h ▸ decodeOfEncodeIsTheInstruction i hwf, h⟩

/-! ### A field is the bits of its mask (10_state.md R29) -/

/-- Bytes that agree under the full mask are equal. -/
theorem eq_of_and_fullByte_eq {b c : Byte} (h : b &&& 0xFF#8 = c &&& 0xFF#8) : b = c := by
  have hfull (x : Byte) : x &&& 0xFF#8 = x := BitVec.and_allOnes
  rwa [hfull, hfull] at h

/-- Buffers that agree on the bits of a field decode it alike. -/
theorem Field.value_eq_of_and_mask_eq (f : Field) {m m' : Memory}
    (h : ∀ j, m.read j &&& f.mask j = m'.read j &&& f.mask j) : f.value m = f.value m' := by
  cases f with
  | sync => exact congrArg (·.setWidth 64) (eq_of_and_fullByte_eq (h 0))
  | afLen => exact congrArg (·.setWidth 64) (eq_of_and_fullByte_eq (h 4))
  | tei | pusi | tp => exact congrArg (fun b => flagResult (b != 0)) (h 1)
  | afPresent | payloadPresent => exact congrArg (fun b => flagResult (b != 0)) (h 3)
  | disc | rai | espi | pcrPresent => exact congrArg (fun b => flagResult (b != 0)) (h 5)
  | sc => exact congrArg (fun b : Byte => ((b >>> 6).setWidth 2).setWidth 64) (h 3)
  | cc => exact congrArg (fun b : Byte => (b.setWidth 4).setWidth 64) (h 3)
  | byte5Low => exact congrArg (·.setWidth 64) (h 5)
  | pcrReserved => exact congrArg (fun b : Byte => (b >>> 1).setWidth 64) (h 10)
  | pid =>
    have h1 : m.read 1 &&& 0x1F#8 = m'.read 1 &&& 0x1F#8 := h 1
    have h2 : m.read 2 = m'.read 2 := eq_of_and_fullByte_eq (h 2)
    simp only [Field.value, Memory.pid, h1, h2]
  | pcrExt =>
    have h10 : m.read 10 &&& 0x01#8 = m'.read 10 &&& 0x01#8 := h 10
    have h11 : m.read 11 = m'.read 11 := eq_of_and_fullByte_eq (h 11)
    simp only [Field.value, Memory.pcrExt, h10, h11]
  | pcrBase =>
    have h6 : m.read 6 = m'.read 6 := eq_of_and_fullByte_eq (h 6)
    have h7 : m.read 7 = m'.read 7 := eq_of_and_fullByte_eq (h 7)
    have h8 : m.read 8 = m'.read 8 := eq_of_and_fullByte_eq (h 8)
    have h9 : m.read 9 = m'.read 9 := eq_of_and_fullByte_eq (h 9)
    have h10 : (m.read 10).toNat / 128 = (m'.read 10).toNat / 128 := toNat_div_128_eq (h 10)
    have hbase : m.pcrBase = m'.pcrBase :=
      BitVec.eq_of_toNat_eq (by simp only [Memory.toNat_pcrBase, h6, h7, h8, h9, h10])
    exact congrArg (·.setWidth 64) hbase
  | rest i =>
    have hmask : (Field.rest i).mask i = 0xFF#8 := if_pos rfl
    exact congrArg (·.setWidth 64) (eq_of_and_fullByte_eq (hmask ▸ h i))

/-- Settles O52: a masked write keeps the bits outside its mask, and a field is the bits of its own. -/
theorem settersNeverDisturbOtherFields : Obligations.SettersNeverDisturbOtherFields := by
  intro i f s _ hdisjoint
  obtain ⟨t, ht, -, hread⟩ := exec_merges i s
  refine ⟨t, ht, f.value_eq_of_and_mask_eq fun j => ?_⟩
  rw [State.buf_read, State.buf_read, hread,
    mergeByte_and_of_disjoint _ _ ((BitVec.and_comm _ _).trans (hdisjoint j))]

/-! ### Which commands change a bit -/

theorem writeMask_and_ne_zero_of_changed {i : Instr} {s t : State} {k : Index} {m : Byte}
    (he : exec i s = .next t) (hchanged : t.readB k &&& m ≠ s.readB k &&& m) :
    writeMask s.cfg s.din i k &&& m ≠ 0 := fun hmask =>
  hchanged (readB_of_exec he k ▸ mergeByte_and_of_disjoint _ _ hmask)

/-- A bit of byte `k` is written by a whole-buffer write, BYTE_WR of that byte or a field setter (R46). -/
theorem writer_cases {cfg : Config} {din : Operand} {i : Instr} {k : Index}
    (h : writeMask cfg din i k ≠ 0) :
    i = .nullPkt ∨ i = .blkLoad ∨ i = .byteWr (.ofNat 8 k.val) ∨ isFieldSetter i = true := by
  cases i with
  | nullPkt => exact .inl rfl
  | blkLoad => exact .inr (.inl rfl)
  | byteWr idx =>
    have hidx : k.val = idx.toNat := by
      by_contra hne
      exact h (if_neg hne)
    exact .inr (.inr (.inl (by rw [hidx, BitVec.ofNat_toNat, BitVec.setWidth_eq])))
  | setTei | setPusi | setTp | setPid | setSc | setPayload | setCc | ccReset
  | setAfLen | setDisc | clrDisc | setRai | setEspi | setPcrf | setPcrBase | setPcrExt =>
    exact .inr (.inr (.inr rfl))
  | _ => exact absurd rfl h

/-- A bit of byte `k` is changed by those that write it. -/
theorem changer_cases {i : Instr} {s t : State} {k : Index} {m : Byte} (he : exec i s = .next t)
    (hchanged : t.readB k &&& m ≠ s.readB k &&& m) :
    i = .nullPkt ∨ i = .blkLoad ∨ i = .byteWr (.ofNat 8 k.val) ∨
      isFieldSetter i = true ∧ writeMask s.cfg s.din i k &&& m ≠ 0 := by
  have hmask := writeMask_and_ne_zero_of_changed he hchanged
  have hne : writeMask s.cfg s.din i k ≠ 0 := fun h0 => hmask (by rw [h0]; exact BitVec.zero_and)
  rw [and_iff_left hmask]
  exact writer_cases hne

/-- A write of ones under a mask clears nothing there. -/
theorem mergeByte_and_ne_zero_of_ones {old mask new m : Byte} (hnew : new &&& m = m)
    (hold : old &&& m ≠ 0) : mergeByte old mask new &&& m ≠ 0 := by
  refine fun hzero => hold ?_
  ext k hk
  have hone (hm : m[k] = true) : new[k] = true := by simpa [hm] using congrArg (·[k]) hnew
  have hbit : (mergeByte old mask new &&& m)[k] = false := by simp [hzero]
  rw [BitVec.getElem_and, getElem_mergeByte] at hbit
  cases hm : m[k] <;> cases hmask : mask[k] <;> simp_all

/-- If each field setter leaves the bits `m` of byte `k` alone or writes ones there, only a whole-buffer
write or BYTE_WR of byte `k` clears them. -/
theorem clearsOnly_of_setters_write_ones {k : Index} {m : Byte}
    (h : ∀ cfg din blkIn i, isFieldSetter i = true →
      writeMask cfg din i k &&& m = 0 ∨ writtenByte cfg din blkIn i k &&& m = m) :
    ClearsOnly k m fun i s => (i = .nullPkt ∧ nullByte s.cfg k &&& m = 0) ∨ i = .blkLoad ∨
      i = .byteWr (.ofNat 8 k.val) := by
  intro i s t he hset hclear
  obtain rfl | hi | hi | ⟨hi, hmask⟩ := changer_cases he (hclear.trans_ne hset.symm)
  · have hnull : t.readB k = nullByte s.cfg k := readB_of_exec_of_overwritten he k rfl
    exact .inl ⟨rfl, hnull ▸ hclear⟩
  · exact .inr (.inl hi)
  · exact .inr (.inr hi)
  · obtain hkeeps | hones := h s.cfg s.din s.blkIn i hi
    · exact absurd hkeeps hmask
    · rw [readB_of_exec he k] at hclear
      exact absurd hclear (mergeByte_and_ne_zero_of_ones hones hset)

/-- No field setter writes the sync byte (R102). -/
theorem writeMask_byte_zero_of_fieldSetter (cfg : Config) (din : Operand) {i : Instr}
    (hi : isFieldSetter i = true) : writeMask cfg din i 0 = 0 := by
  cases i with
  | setTei | setPusi | setTp | setPid | setSc | setPayload | setCc | ccReset
  | setDisc | clrDisc | setRai | setEspi | setPcrf | setPcrBase | setPcrExt => rfl
  | setAfLen =>
    simp only [writeMask, afLenWriteMask]
    cases cfg.afZeroLen <;> simp [maskAt]
  | _ => exact nomatch hi

/-- A field setter writes none of the three flags of byte 1, or ones (R103, R105, R107, R109). -/
theorem fieldSetter_skips_or_sets_byte_one_flags {m : Byte} (hm : 0x1F#8 &&& m = 0)
    (cfg : Config) (din : Operand) (blkIn : Block) (i : Instr) (hi : isFieldSetter i = true) :
    writeMask cfg din i 1 &&& m = 0 ∨ writtenByte cfg din blkIn i 1 &&& m = m := by
  cases i with
  | setPid => exact .inl hm
  | setTei | setPusi | setTp | setPayload | setAfLen | setDisc | setRai | setEspi | setPcrf
  | setPcrBase => exact .inr BitVec.allOnes_and
  | setSc | setCc | ccReset | clrDisc | setPcrExt => exact .inl BitVec.zero_and
  | _ => exact nomatch hi

/-- A field setter writes none of the two presence bits of byte 3, or ones (R111, R114, R116, R140). -/
theorem fieldSetter_skips_or_sets_byte_three_flags {m : Byte} (hsc : 0xC0#8 &&& m = 0)
    (hcc : 0x0F#8 &&& m = 0) (cfg : Config) (din : Operand) (blkIn : Block) (i : Instr)
    (hi : isFieldSetter i = true) :
    writeMask cfg din i 3 &&& m = 0 ∨ writtenByte cfg din blkIn i 3 &&& m = m := by
  cases i with
  | setSc => exact .inl hsc
  | setCc | ccReset => exact .inl hcc
  | setTei | setPusi | setTp | setPayload | setAfLen | setDisc | setRai | setEspi | setPcrf
  | setPcrBase => exact .inr BitVec.allOnes_and
  | setPid | clrDisc | setPcrExt => exact .inl BitVec.zero_and
  | _ => exact nomatch hi

end Sys2Proof.Machine
end

section
/-! SUPPORT. The header family (41_header.md R102 to R118) command by command: the byte each setter leaves,
the value each getter returns, and what a getter returns after its setter. -/

namespace Sys2Proof.Machine

/-! ### Setters -/

/-- A field setter answers `DOUT = 0`. -/
theorem exec_fieldSetter {i : Instr} (hi : isFieldSetter i = true) (s : State) :
    ∃ u, exec i s = .next (State.respond u 0) := by
  cases i with
  | setTei | setPusi | setTp | setPid | setSc | setPayload | setCc | ccReset
  | setAfLen | setDisc | clrDisc | setRai | setEspi | setPcrf | setPcrBase | setPcrExt =>
    exact ⟨_, rfl⟩
  | _ => exact nomatch hi

/-- A field setter completes with the bytes of its masked write. -/
theorem completes_of_fieldSetter {i : Instr} {s : State} {bytes : Index → Byte}
    (hi : isFieldSetter i = true)
    (hbytes : ∀ j, mergeByte (s.readB j) (writeMask s.cfg s.din i j)
      (writtenByte s.cfg s.din s.blkIn i j) = bytes j) : Completes i s 0 bytes := by
  obtain ⟨u, hu⟩ := exec_fieldSetter hi s
  exact ⟨_, hu, rfl, rfl, fun j => (readB_of_exec hu j).trans (hbytes j), exec_keeps hu⟩

/-- A field setter whose write set lies in byte `k` completes with the new byte `k` and no other change. -/
theorem completes_of_fieldSetter_of_byte {i : Instr} {s : State} {k : Index} {m v : Byte}
    (hi : isFieldSetter i = true) (hmask : writeMask s.cfg s.din i = maskAt k m)
    (hbyte : mergeByte (s.readB k) m (writtenByte s.cfg s.din s.blkIn i k) = v) :
    Completes i s 0 fun j => if j = k then v else s.readB j := by
  refine completes_of_fieldSetter hi fun j => ?_
  rw [hmask]
  by_cases hj : j = k
  · simp [hj, maskAt, hbyte]
  · simp [hj, maskAt]

/-- RMW with a value inside its mask: the other bits, ORed with the value. -/
theorem mergeByte_eq_or {old mask new keep : Byte} (hkeep : ~~~mask = keep)
    (hnew : new &&& mask = new) : mergeByte old mask new = (old &&& keep) ||| new := by
  rw [mergeByte, hkeep, hnew]

theorem toNat_scOperand (d : Operand) : (scOperand d).toNat = d.toNat % 4 := by
  simp [scOperand, BitVec.extractLsb'_toNat]

theorem pidOperand_low_eq_ofNat (d : Operand) :
    (pidOperand d).setWidth 8 = BitVec.ofNat 8 (d.toNat % 256) := by
  apply BitVec.eq_of_toNat_eq
  rw [BitVec.toNat_setWidth, toNat_pidOperand, BitVec.toNat_ofNat]
  omega

theorem pidOperand_high_eq_ofNat (d : Operand) :
    (pidOperand d >>> 8).setWidth 8 = BitVec.ofNat 8 (d.toNat % 8192 / 256) := by
  apply BitVec.eq_of_toNat_eq
  rw [BitVec.toNat_setWidth, BitVec.toNat_ushiftRight, toNat_pidOperand, BitVec.toNat_ofNat,
    Nat.shiftRight_eq_div_pow]

/-- `pid >> 8` lies inside SET_PID's mask (R109). -/
theorem pidOperand_high_inside_mask (d : Operand) :
    (pidOperand d >>> 8).setWidth 8 &&& 0x1F#8 = (pidOperand d >>> 8).setWidth 8 := by
  have hlow : ((pidOperand d >>> 8).setWidth 8 &&& 0x1F#8).toNat =
      ((pidOperand d >>> 8).setWidth 8).toNat % 2 ^ 5 := toNat_and_mask 5 rfl
  apply BitVec.eq_of_toNat_eq
  rw [hlow, pidOperand_high_eq_ofNat, BitVec.toNat_ofNat]
  omega

/-- `sc << 6` lies inside SET_SC's mask (R111). -/
theorem scBits_in_place (sc : BitVec 2) : sc.setWidth 8 <<< 6 &&& 0xC0#8 = sc.setWidth 8 <<< 6 ∧
    sc.setWidth 8 <<< 6 = BitVec.ofNat 8 (sc.toNat * 64) := by
  revert sc
  decide

/-- `cc` lies inside SET_CC's mask (R116). -/
theorem ccBits_in_place (cc : BitVec 4) : cc.setWidth 8 &&& 0x0F#8 = cc.setWidth 8 ∧
    cc.setWidth 8 = BitVec.ofNat 8 cc.toNat := by
  revert cc
  decide

/-- Settles O24: byte 2 is overwritten, byte 1 is an RMW of its low five bits. -/
theorem setPidWritesThirteenBits : Obligations.SetPidWritesThirteenBits := by
  refine ⟨encodes_of_encode_eq rfl rfl, fun s => completes_of_fieldSetter rfl fun j => ?_⟩
  split
  next h1 =>
    subst h1
    rw [← pidOperand_high_eq_ofNat]
    exact mergeByte_eq_or (mask := 0x1F) rfl (pidOperand_high_inside_mask s.din)
  next h1 =>
    split
    next h2 =>
      subst h2
      rw [← pidOperand_low_eq_ofNat]
      exact mergeByte_full _ _
    next h2 => simp [writeMask, maskAt, h1, h2]

/-- Settles O26: an RMW of the top two bits of byte 3. -/
theorem setScReplacesTwoBits : Obligations.SetScReplacesTwoBits := by
  refine ⟨encodes_of_encode_eq rfl rfl, fun s => completes_of_fieldSetter_of_byte rfl rfl ?_⟩
  obtain ⟨hinside, hvalue⟩ := scBits_in_place (scOperand s.din)
  rw [← toNat_scOperand, ← hvalue]
  exact mergeByte_eq_or rfl hinside

/-- Settles O28: an RMW of the low nibble of byte 3. -/
theorem setCcStoresModuloSixteen : Obligations.SetCcStoresModuloSixteen := by
  refine ⟨encodes_of_encode_eq rfl rfl, fun s => completes_of_fieldSetter_of_byte rfl rfl ?_⟩
  obtain ⟨hinside, hvalue⟩ := ccBits_in_place (ccOperand s.din)
  rw [← toNat_ccOperand, ← hvalue]
  exact mergeByte_eq_or rfl hinside

/-- Settles O30: writing zeros under the mask of SET_CC is its RMW with the value 0. -/
theorem ccResetIsSetCcZero : Obligations.CcResetIsSetCcZero := by
  have hreset (s : State) :
      Completes .ccReset s 0 fun j => if j = 3 then s.readB 3 &&& 0xF0 else s.readB j :=
    completes_of_fieldSetter_of_byte rfl rfl (mergeByte_zeros _ _)
  obtain ⟨-, hset⟩ := setCcStoresModuloSixteen
  refine ⟨encodes_of_encode_eq rfl rfl, hreset, fun s => ?_⟩
  obtain ⟨t, ht, hstatus, hdout, hread, -⟩ := hreset s
  obtain ⟨u, hu, hstatus', hdout', hread', -⟩ := hset (s.withDin 0)
  refine ⟨t, u, ht, hu, fun j => ?_, hstatus.trans hstatus'.symm, hdout.trans hdout'.symm⟩
  rw [hread, hread']
  simp

/-- Settles O21: each setter's OR, and no field setter writes a zero to one of the four flags. -/
theorem headerFlagSettersOrTheirBitOnly : Obligations.HeaderFlagSettersOrTheirBitOnly := by
  refine ⟨?words, fun s => ?results, fun m hm => ?byte1, ?byte3, fun s => ⟨?pid, ?cc⟩⟩
  case words =>
    exact ⟨encodes_of_encode_eq rfl rfl, encodes_of_encode_eq rfl rfl, encodes_of_encode_eq rfl rfl,
      encodes_of_encode_eq rfl rfl⟩
  case results =>
    and_intros <;> exact completes_of_fieldSetter_of_byte rfl rfl (mergeByte_ones _ _)
  case byte1 =>
    have hpid : 0x1F#8 &&& m = 0 := by obtain rfl | rfl | rfl := hm <;> rfl
    exact clearsOnly_of_setters_write_ones (fieldSetter_skips_or_sets_byte_one_flags hpid)
  case byte3 =>
    exact clearsOnly_of_setters_write_ones (fieldSetter_skips_or_sets_byte_three_flags rfl rfl)
  case pid =>
    obtain ⟨t, ht, -⟩ := exec_merges .setPid s
    have h1 : t.readB 1 = mergeByte (s.readB 1) 0x1F _ := readB_of_exec ht 1
    exact ⟨t, ht, h1 ▸ mergeByte_and_of_disjoint _ _ rfl⟩
  case cc =>
    obtain ⟨t, ht, -⟩ := exec_merges .setCc s
    have h3 : t.readB 3 = mergeByte (s.readB 3) 0x0F _ := readB_of_exec ht 3
    exact ⟨t, ht, h3 ▸ mergeByte_and_of_disjoint _ _ rfl⟩

/-! ### Getters -/

theorem flagResult_bitsSet_eq_ite (b mask : Byte) :
    flagResult (bitsSet b mask) = if b &&& mask ≠ 0 then 1 else 0 := by
  simp [flagResult, bitsSet]

/-- Settles O22: each getter responds with its bit's flag result. -/
theorem headerFlagGettersReportTheirBit : Obligations.HeaderFlagGettersReportTheirBit := by
  refine ⟨?words, fun s => ?results⟩
  case words =>
    exact ⟨encodes_of_encode_eq rfl rfl, encodes_of_encode_eq rfl rfl, encodes_of_encode_eq rfl rfl,
      encodes_of_encode_eq rfl rfl⟩
  case results =>
    and_intros <;> exact (completes_of_exec_eq_respond rfl).congr_dout (flagResult_bitsSet_eq_ite _ _)

/-- A getter of a field wider than one bit completes with the field as a number (30_encoding.md R64). -/
theorem completes_of_respond_number {i : Instr} {s : State} {w n : Nat} {x : BitVec w}
    (h : exec i s = .next (s.respond (x.setWidth 64))) (hx : x.toNat = n) :
    Completes i s (BitVec.ofNat 64 n) s.readB :=
  (completes_of_exec_eq_respond h).congr_dout (setWidth_eq_ofNat hx)

/-- Settles O25: the PID as a number, before and after SET_PID. -/
theorem getPidReadsBackSetPid : Obligations.GetPidReadsBackSetPid := by
  refine ⟨encodes_of_encode_eq rfl rfl, fun s => completes_of_respond_number rfl s.buf.toNat_pid,
    fun s => ?_⟩
  obtain ⟨t, ht, -⟩ := exec_merges .setPid s
  exact ⟨t, ht, completes_of_respond_number rfl (toNat_pid_of_exec_setPid ht)⟩

/-- SET_SC, then GET_SC's value (R111, R112). -/
theorem toNat_scrambling_of_exec_setSc {s t : State} (he : exec .setSc s = .next t) :
    t.buf.scrambling.toNat = s.din.toNat % 4 := by
  have h3 : t.readB 3 &&& 0xC0#8 = (scOperand s.din).setWidth 8 <<< 6 &&& 0xC0#8 :=
    readB_of_exec he 3 ▸ mergeByte_and_mask _ _ _
  have hback : ∀ sc : BitVec 2, ((sc.setWidth 8 <<< 6 &&& 0xC0#8) >>> 6).setWidth 2 = sc := by decide
  rw [Memory.scrambling, State.buf_read, h3, hback, toNat_scOperand]

/-- Settles O27: the scrambling control as a number, before and after SET_SC. -/
theorem getScReadsBackSetSc : Obligations.GetScReadsBackSetSc := by
  refine ⟨encodes_of_encode_eq rfl rfl,
    fun s => completes_of_respond_number rfl s.buf.toNat_scrambling, fun s => ?_⟩
  obtain ⟨t, ht, -⟩ := exec_merges .setSc s
  exact ⟨t, ht, completes_of_respond_number rfl (toNat_scrambling_of_exec_setSc ht)⟩

/-- Settles O29: the continuity counter as a number, before and after SET_CC. -/
theorem getCcReadsBackSetCc : Obligations.GetCcReadsBackSetCc := by
  refine ⟨encodes_of_encode_eq rfl rfl,
    fun s => completes_of_respond_number rfl s.buf.toNat_continuity, fun s => ?_⟩
  obtain ⟨t, ht, -⟩ := exec_merges .setCc s
  exact ⟨t, ht, completes_of_respond_number rfl (toNat_continuity_of_exec_setCc ht)⟩

/-! ### SYNC_OK and GET_AFC, with the commands that change what they read -/

/-- Settles O20: the comparison, and no field setter writes byte 0. -/
theorem syncOkReportsTheSyncByte : Obligations.SyncOkReportsTheSyncByte := by
  refine ⟨encodes_of_encode_eq rfl rfl, fun s => ?_, fun i s t he hchanged => ?_⟩
  · exact (completes_of_exec_eq_respond rfl).congr_dout (by simp [flagResult])
  · obtain h | h | h | ⟨hsetter, hmask⟩ := changer_cases he (hchanged ∘ eq_of_and_fullByte_eq)
    · exact .inl h
    · exact .inr (.inl h)
    · exact .inr (.inr h)
    · exact absurd (congrArg (· &&& 0xFF#8) (writeMask_byte_zero_of_fieldSetter _ _ hsetter)) hmask

/-- Only SET_AF_LEN among the field setters writes the AF-present bit (R113). -/
theorem eq_setAfLen_of_af_present_written {cfg : Config} {din : Operand} {i : Instr}
    (hi : isFieldSetter i = true) (hmask : writeMask cfg din i 3 &&& 0x20 ≠ 0) : i = .setAfLen := by
  cases i with
  | setAfLen => rfl
  | setSc => exact absurd (rfl : 0xC0#8 &&& 0x20#8 = 0) hmask
  | setPayload => exact absurd (rfl : 0x10#8 &&& 0x20#8 = 0) hmask
  | setCc | ccReset => exact absurd (rfl : 0x0F#8 &&& 0x20#8 = 0) hmask
  | setTei | setPusi | setTp | setPid | setDisc | clrDisc | setRai | setEspi | setPcrf | setPcrBase
  | setPcrExt => exact absurd BitVec.zero_and hmask
  | _ => exact nomatch hi

/-- SET_AF_LEN writes the AF-present bit for a non-zero length or under SET_AND_WRITE (R140, R142). -/
theorem length_ne_zero_or_setAndWrite_of_af_present_written {cfg : Config} {din : Operand}
    (h : writeMask cfg din .setAfLen 3 &&& 0x20 ≠ 0) :
    din.toNat % 256 ≠ 0 ∨ cfg.afZeroLen = .setAndWrite := by
  refine or_iff_not_imp_left.mpr fun hzero => ?_
  have hlen : afLenOperand din = 0 :=
    BitVec.eq_of_toNat_eq (by simpa [afLenOperand, BitVec.extractLsb'_toNat] using hzero)
  simp only [writeMask, afLenWriteMask, hlen, if_true] at h
  cases hcfg : cfg.afZeroLen with
  | setAndWrite => rfl
  | noop | writeLen => rw [hcfg] at h; exact absurd rfl h

/-- R8 admits no `NULL_B3` with the AF-present bit. -/
theorem nullB3_af_absent {cfg : Config} (h : cfg.wf) : cfg.nullB3 &&& 0x20 = 0 := by
  obtain ⟨-, h3⟩ := h
  calc cfg.nullB3 &&& 0x20 = cfg.nullB3 &&& (0x2F#8 &&& 0x20#8) := rfl
    _ = cfg.nullB3 &&& 0x2F#8 &&& 0x20#8 := (BitVec.and_assoc _ _ _).symm
    _ = 0x00#8 &&& 0x20#8 := congrArg (· &&& 0x20#8) h3

/-- Settles O23: of the commands that write the bit, NULL_PKT writes a zero and SET_AF_LEN a one. -/
theorem afPresentIsReadByGetAfcAndSetBySetAfLen :
    Obligations.AfPresentIsReadByGetAfcAndSetBySetAfLen := by
  refine ⟨encodes_of_encode_eq rfl rfl, fun s => ?_, fun i s t hwf he hclear hset => ?_,
    fun i s t he hset hclear => ?_⟩
  · exact (completes_of_exec_eq_respond rfl).congr_dout (flagResult_bitsSet_eq_ite _ _)
  · obtain rfl | h | h | ⟨hsetter, hmask⟩ := changer_cases he (hclear ▸ hset)
    · have hnull : t.readB 3 = s.cfg.nullB3 := readB_of_exec_of_overwritten he 3 rfl
      exact absurd (hnull ▸ nullB3_af_absent hwf) hset
    · exact .inr (.inl h)
    · exact .inr (.inr h)
    · obtain rfl := eq_setAfLen_of_af_present_written hsetter hmask
      exact .inl ⟨rfl, length_ne_zero_or_setAndWrite_of_af_present_written hmask⟩
  · have hclears :=
      clearsOnly_of_setters_write_ones (m := 0x20) (fieldSetter_skips_or_sets_byte_three_flags rfl rfl)
    exact (hclears i s t he hset hclear).imp_left And.left

end Sys2Proof.Machine
end

section
/-! SUPPORT. The adaptation-field family (42_adaptation.md R140 to R152): every byte SET_AF_LEN leaves, for
either kind of length, what it leaves outside the declared field, and which commands clear a bit of byte 5. -/

namespace Sys2Proof.Machine

/-! ### SET_AF_LEN's operand and its two cases -/

theorem toNat_afLenOperand (d : Operand) : (afLenOperand d).toNat = d.toNat % 256 := by
  simp [afLenOperand, BitVec.extractLsb'_toNat]

theorem afLenOperand_eq_ofNat (d : Operand) : afLenOperand d = BitVec.ofNat 8 (d.toNat % 256) := by
  rw [← toNat_afLenOperand, BitVec.ofNat_toNat, BitVec.setWidth_eq]

theorem afLenOperand_eq_zero_iff (d : Operand) : afLenOperand d = 0 ↔ d.toNat % 256 = 0 := by
  rw [← toNat_afLenOperand]
  exact BitVec.toNat_inj.symm

/-- SET_AF_LEN with `L = 0` (R142). -/
theorem exec_setAfLen_of_zero {s : State} (hlen : s.din.toNat % 256 = 0) :
    exec .setAfLen s = .next (s.afLenZero.respond 0) := by
  simp only [exec, execSetAfLen, (afLenOperand_eq_zero_iff s.din).mpr hlen, if_true]

/-- SET_AF_LEN with a length (R140). -/
theorem exec_setAfLen_of_ne_zero {s : State} (hlen : s.din.toNat % 256 ≠ 0) :
    exec .setAfLen s = .next ((s.afLenDeclare (afLenOperand s.din)).respond 0) := by
  simp only [exec, execSetAfLen, mt (afLenOperand_eq_zero_iff s.din).mp hlen, if_false]

/-- A length is stored in byte 4, whatever the fill reaches (R140). -/
theorem State.readB_four_afLenDeclare (s : State) (len : Byte) :
    (s.afLenDeclare len).readB 4 = len := by
  simp [s.readB_afLenDeclare]

/-- Settles O31: the two halves of SET_AF_LEN, byte by byte. -/
theorem setAfLenWritesLengthFlagsAndStuffing :
    Obligations.SetAfLenWritesLengthFlagsAndStuffing := by
  refine ⟨encodes_of_encode_eq rfl rfl, fun s => ?_⟩
  by_cases hlen : s.din.toNat % 256 = 0
  case pos =>
    have he := exec_setAfLen_of_zero hlen
    refine ⟨_, he, rfl, rfl, fun j => ?_, exec_keeps he⟩
    rw [State.readB_respond, s.readB_afLenZero]
    simp only [hlen, if_true]
    cases s.cfg.afZeroLen with
    | noop | writeLen => simp
    | setAndWrite => by_cases h3 : j = 3 <;> simp [h3]
  case neg =>
    have he := exec_setAfLen_of_ne_zero hlen
    refine ⟨_, he, rfl, rfl, fun j => ?_, exec_keeps he⟩
    rw [State.readB_respond, s.readB_afLenDeclare]
    simp only [hlen, if_false, fillEnd, afLenOperand_eq_ofNat]
    by_cases h3 : j = 3
    · simp [h3]
    by_cases h4 : j = 4
    · simp [h4]
    by_cases h5 : j = 5
    · simp [h5]
    cases s.cfg.afFill with
    | toEnd | bounded => simp [h3, h4, h5]

/-- Settles O32: byte 4 as a number, before and after SET_AF_LEN with a length. -/
theorem getAfLenReturnsByteFour : Obligations.GetAfLenReturnsByteFour := by
  refine ⟨encodes_of_encode_eq rfl rfl, fun s => completes_of_respond_number rfl rfl,
    fun s hlen => ⟨_, exec_setAfLen_of_ne_zero hlen, completes_of_respond_number rfl ?_⟩⟩
  rw [State.readB_respond, State.readB_four_afLenDeclare, toNat_afLenOperand]

/-! ### The bytes of the declared field -/

/-- `L = 0` touches bytes 3 and 4 at most (R142). -/
theorem State.readB_afLenZero_of_ne (s : State) {j : Index} (h3 : j ≠ 3) (h4 : j ≠ 4) :
    s.afLenZero.readB j = s.readB j := by
  simp [s.readB_afLenZero, h3, h4]

/-- Under BOUNDED a byte outside bytes 3..4+L survives a length (R141). -/
theorem State.readB_afLenDeclare_of_outside (s : State) {len : Byte} (hlen : len ≠ 0)
    (hfill : s.cfg.afFill = .bounded) {j : Index} (h3 : j ≠ 3) (h4 : j ≠ 4)
    (hout : ¬(5 ≤ j.val ∧ j.val ≤ 4 + len.toNat)) : (s.afLenDeclare len).readB j = s.readB j := by
  have hpos : len.toNat ≠ 0 := fun h0 => hlen (BitVec.eq_of_toNat_eq h0)
  have h5 : j ≠ 5 := by
    rintro rfl
    exact hout ⟨le_rfl, by change 5 ≤ _; omega⟩
  have hunfilled : ¬(2 ≤ len.toNat ∧ 6 ≤ j.val ∧ j.val ≤ fillEnd s.cfg len) := by
    simp only [fillEnd, hfill]
    omega
  rw [s.readB_afLenDeclare, if_neg hunfilled, if_neg h5, if_neg h4, if_neg h3]

/-- Settles O59: the changed bytes for `L = 0`, and for a length, which byte 4 then holds. -/
theorem payloadSurvivesTheBoundedFill : Obligations.PayloadSurvivesTheBoundedFill := by
  intro s hfill
  by_cases hlen : s.din.toNat % 256 = 0
  case pos =>
    refine ⟨_, exec_setAfLen_of_zero hlen, fun j hchanged => ?_⟩
    by_contra! ⟨h3, h4, -⟩
    exact hchanged (s.readB_afLenZero_of_ne h3 h4)
  case neg =>
    refine ⟨_, exec_setAfLen_of_ne_zero hlen, fun j hchanged => ?_⟩
    rw [State.insideField, State.readB_respond, State.readB_four_afLenDeclare]
    by_contra hnone
    obtain ⟨h3, h4, hout⟩ := (not_or.trans (and_congr_right' not_or)).mp hnone
    have hne := mt (afLenOperand_eq_zero_iff s.din).mp hlen
    exact hchanged (s.readB_afLenDeclare_of_outside hne hfill h3 h4 hout)

/-! ### Which commands clear a bit of byte 5 -/

theorem ClearsOnly.mono {k : Index} {m : Byte} {P Q : Instr → State → Prop} (h : ClearsOnly k m P)
    (himp : ∀ i s, P i s → Q i s) : ClearsOnly k m Q :=
  fun i s t he hset hclear => himp i s (h i s t he hset hclear)

/-- A command that clears the bits `m` writes a zero somewhere under them. -/
theorem written_not_ones_of_clears {i : Instr} {s t : State} {k : Index} {m : Byte}
    (he : exec i s = .next t) (hset : s.readB k &&& m ≠ 0) (hclear : t.readB k &&& m = 0) :
    writtenByte s.cfg s.din s.blkIn i k &&& m ≠ m := by
  rw [readB_of_exec he k] at hclear
  exact fun hones => mergeByte_and_ne_zero_of_ones hones hset hclear

/-- SET_AF_LEN with `L = 0` does not write byte 5 (R142). -/
theorem length_ne_zero_of_byte_five_written {cfg : Config} {din : Operand}
    (h : writeMask cfg din .setAfLen 5 ≠ 0) : din.toNat % 256 ≠ 0 := by
  refine fun hzero => h ?_
  simp only [writeMask, afLenWriteMask, (afLenOperand_eq_zero_iff din).mpr hzero, if_true]
  cases cfg.afZeroLen <;> rfl

/-- Of the field setters, CLR_DISC and SET_AF_LEN with a length write zeros to byte 5; the others leave a
bit of it alone or write a one (R144, R145, R147, R149, R151, R170). -/
theorem byte_five_zero_writer_cases {cfg : Config} {din : Operand} {blkIn : Block} {i : Instr} {m : Byte}
    (hi : isFieldSetter i = true) (hmask : writeMask cfg din i 5 &&& m ≠ 0)
    (hones : writtenByte cfg din blkIn i 5 &&& m ≠ m) :
    (i = .clrDisc ∧ 0x80#8 &&& m ≠ 0) ∨ (i = .setAfLen ∧ din.toNat % 256 ≠ 0) := by
  cases i with
  | clrDisc => exact .inl ⟨rfl, hmask⟩
  | setAfLen =>
    have hwritten : writeMask cfg din .setAfLen 5 ≠ 0 := fun h0 =>
      hmask (by rw [h0]; exact BitVec.zero_and)
    exact .inr ⟨rfl, length_ne_zero_of_byte_five_written hwritten⟩
  | setTei | setPusi | setTp | setPayload | setDisc | setRai | setEspi | setPcrf | setPcrBase =>
    exact absurd BitVec.allOnes_and hones
  | setPid | setSc | setCc | ccReset | setPcrExt => exact absurd BitVec.zero_and hmask
  | _ => exact nomatch hi

/-- NULL_PKT fills byte 5 with ones (R190), so what clears bits of it is a setter that writes zeros there,
BLK_LOAD or BYTE_WR 5. -/
theorem clearsOnly_byte_five (m : Byte) : ClearsOnly 5 m fun i s =>
    (i = .clrDisc ∧ 0x80#8 &&& m ≠ 0) ∨ (i = .setAfLen ∧ s.din.toNat % 256 ≠ 0) ∨
      i = .blkLoad ∨ i = .byteWr 5 := by
  intro i s t he hset hclear
  have hones := written_not_ones_of_clears he hset hclear
  obtain rfl | h | h | ⟨hi, hmask⟩ := changer_cases he (hclear.trans_ne hset.symm)
  · exact absurd BitVec.allOnes_and hones
  · exact .inr (.inr (.inl h))
  · exact .inr (.inr (.inr h))
  · exact or_assoc.mp (.inl (byte_five_zero_writer_cases hi hmask hones))

/-- A bit of byte 5 beside the discontinuity bit is cleared by whole-byte writes alone. -/
theorem clearsOnly_byte_five_of_not_disc {m : Byte} (hm : 0x80#8 &&& m = 0) : ClearsOnly 5 m fun i s =>
    (i = .setAfLen ∧ s.din.toNat % 256 ≠ 0) ∨ i = .blkLoad ∨ i = .byteWr 5 :=
  (clearsOnly_byte_five m).mono fun _ _ h => h.resolve_left fun ⟨_, hdisc⟩ => hdisc hm

/-- Settles O33: each setter's OR, and byte 5's other flags are outside CLR_DISC's mask. -/
theorem byteFiveFlagSettersOrTheirBitOnly : Obligations.ByteFiveFlagSettersOrTheirBitOnly := by
  refine ⟨?words, fun s => ?results, fun m hm => ?clears, fun s => ?pcr⟩
  case words =>
    exact ⟨encodes_of_encode_eq rfl rfl, encodes_of_encode_eq rfl rfl, encodes_of_encode_eq rfl rfl,
      encodes_of_encode_eq rfl rfl⟩
  case results =>
    and_intros <;> exact completes_of_fieldSetter_of_byte rfl rfl (mergeByte_ones _ _)
  case clears =>
    have hdisc : 0x80#8 &&& m = 0 := by obtain rfl | rfl | rfl := hm <;> rfl
    exact clearsOnly_byte_five_of_not_disc hdisc
  case pcr =>
    obtain ⟨t, ht, -⟩ := exec_merges .setPcrBase s
    have h5 : t.readB 5 = mergeByte (s.readB 5) 0x10 0xFF := readB_of_exec ht 5
    have hflag : t.readB 5 &&& 0x10 = 0xFF#8 &&& 0x10#8 := h5 ▸ mergeByte_and_mask _ _ _
    exact ⟨t, ht, hflag.trans_ne (by decide)⟩

/-- The flags beside the discontinuity bit, and for each the masks of its byte under which a field setter
writes zeros: SET_PID's in byte 1, SET_SC's and SET_CC's in byte 3, CLR_DISC's in byte 5. -/
theorem otherFlags_outside_zero_writers : ∀ p ∈ ([(1, 0x80), (1, 0x40), (1, 0x20), (3, 0x20), (3, 0x10),
      (5, 0x40), (5, 0x20), (5, 0x10)] : List (Index × Byte)),
    (p.1 = 1 ∧ 0x1F#8 &&& p.2 = 0) ∨ (p.1 = 3 ∧ 0xC0#8 &&& p.2 = 0 ∧ 0x0F#8 &&& p.2 = 0) ∨
      (p.1 = 5 ∧ 0x80#8 &&& p.2 = 0) := by
  intro p hp
  fin_cases hp <;> decide

/-- Settles O34: CLR_DISC writes a zero under its mask, and every other flag's bit lies outside the masks
of the setters that write zeros to part of its byte. -/
theorem clrDiscClearsOneBit : Obligations.ClrDiscClearsOneBit := by
  refine ⟨encodes_of_encode_eq rfl rfl,
    fun s => completes_of_fieldSetter_of_byte rfl rfl (mergeByte_zeros _ _),
    (clearsOnly_byte_five 0x80).mono fun _ _ h => h.imp_left And.left, fun k m hflag => ?_⟩
  obtain ⟨rfl, hpid⟩ | ⟨rfl, hsc, hcc⟩ | ⟨rfl, hdisc⟩ := otherFlags_outside_zero_writers (k, m) hflag
  · have hclears := clearsOnly_of_setters_write_ones (fieldSetter_skips_or_sets_byte_one_flags hpid)
    refine hclears.mono fun i s h => ?_
    obtain ⟨rfl, -⟩ | rfl | rfl := h <;> simp
  · have hclears :=
      clearsOnly_of_setters_write_ones (fieldSetter_skips_or_sets_byte_three_flags hsc hcc)
    refine hclears.mono fun i s h => ?_
    obtain ⟨rfl, -⟩ | rfl | rfl := h <;> simp
  · refine (clearsOnly_byte_five_of_not_disc hdisc).mono fun i s h => ?_
    obtain ⟨rfl, -⟩ | rfl | rfl := h <;> simp

/-! ### Getters -/

/-- Settles O35: each getter responds with its bit's flag result. -/
theorem byteFiveFlagGettersReportTheirBit : Obligations.ByteFiveFlagGettersReportTheirBit := by
  refine ⟨?words, fun s => ?results⟩
  case words =>
    exact ⟨encodes_of_encode_eq rfl rfl, encodes_of_encode_eq rfl rfl, encodes_of_encode_eq rfl rfl,
      encodes_of_encode_eq rfl rfl⟩
  case results =>
    and_intros <;> exact (completes_of_exec_eq_respond rfl).congr_dout (flagResult_bitsSet_eq_ite _ _)

end Sys2Proof.Machine
end

section
/-! SUPPORT. The programme clock reference family (43_pcr.md R170 to R175): every byte its two setters
leave, what its getters return, and which commands change the reserved bits of byte 10. -/

namespace Sys2Proof.Machine

/-! ### Setters -/

/-- The byte of the base from bit `k` up (R170). -/
theorem pcrBaseOperand_byte_eq_ofNat (d : Operand) (k : Nat) :
    (pcrBaseOperand d).extractLsb' k 8 = BitVec.ofNat 8 (d.toNat % 2 ^ 33 / 2 ^ k) := by
  apply BitVec.eq_of_toNat_eq
  rw [BitVec.extractLsb'_toNat, toNat_pcrBaseOperand, BitVec.toNat_ofNat, Nat.shiftRight_eq_div_pow]

theorem toNat_pcrBaseOperand_bit_zero (d : Operand) :
    ((pcrBaseOperand d).extractLsb' 0 1).toNat = d.toNat % 2 ^ 33 % 2 := by
  rw [BitVec.extractLsb'_toNat, toNat_pcrBaseOperand]
  rfl

/-- `base[0] << 7` beside the reserved bits lies inside SET_PCR_BASE's mask of byte 10 (R170). -/
theorem pcrBaseLow_in_place (b : BitVec 1) :
    (b.setWidth 8 <<< 7 ||| 0x7E#8) &&& 0xFE#8 = b.setWidth 8 <<< 7 ||| 0x7E#8 ∧
      b.setWidth 8 <<< 7 = BitVec.ofNat 8 (b.toNat * 128) := by
  revert b
  decide

/-- Byte 10 after SET_PCR_BASE: the extension's bit, base bit 0 and the reserved bits (R170). -/
theorem mergeByte_pcrBaseLow (old : Byte) (d : Operand) :
    mergeByte old 0xFE#8 (((pcrBaseOperand d).extractLsb' 0 1).setWidth 8 <<< 7 ||| 0x7E#8) =
      (old &&& 0x01) ||| BitVec.ofNat 8 (d.toNat % 2 ^ 33 % 2 * 128) ||| 0x7E := by
  obtain ⟨hinside, hvalue⟩ := pcrBaseLow_in_place ((pcrBaseOperand d).extractLsb' 0 1)
  rw [mergeByte_eq_or (keep := 0x01) rfl hinside, hvalue, toNat_pcrBaseOperand_bit_zero,
    ← BitVec.or_assoc]
  rfl

/-- Settles O37: an OR into byte 5, bytes 6 to 9 overwritten, an RMW of the top seven bits of byte 10. -/
theorem setPcrBaseWritesThirtyThreeBits : Obligations.SetPcrBaseWritesThirtyThreeBits := by
  refine ⟨encodes_of_encode_eq rfl rfl, fun s => completes_of_fieldSetter rfl fun j => ?_⟩
  have hwhole (k : Nat) (old : Byte) :
      mergeByte old 0xFF ((pcrBaseOperand s.din).extractLsb' k 8) =
        BitVec.ofNat 8 (s.din.toNat % 2 ^ 33 / 2 ^ k) :=
    (mergeByte_full _ _).trans (pcrBaseOperand_byte_eq_ofNat s.din k)
  by_cases h5 : j = 5
  · subst h5
    exact mergeByte_ones _ _
  by_cases h6 : j = 6
  · subst h6
    exact hwhole 25 _
  by_cases h7 : j = 7
  · subst h7
    exact hwhole 17 _
  by_cases h8 : j = 8
  · subst h8
    exact hwhole 9 _
  by_cases h9 : j = 9
  · subst h9
    exact hwhole 1 _
  by_cases h10 : j = 10
  · subst h10
    exact mergeByte_pcrBaseLow _ _
  simp [writeMask, maskAt, h5, h6, h7, h8, h9, h10]

theorem pcrExtOperand_low_eq_ofNat (d : Operand) :
    (pcrExtOperand d).setWidth 8 = BitVec.ofNat 8 (d.toNat % 256) := by
  apply BitVec.eq_of_toNat_eq
  rw [BitVec.toNat_setWidth, toNat_pcrExtOperand, BitVec.toNat_ofNat]
  omega

theorem pcrExtOperand_high_eq_ofNat (d : Operand) :
    (pcrExtOperand d >>> 8).setWidth 8 = BitVec.ofNat 8 (d.toNat % 512 / 256) := by
  apply BitVec.eq_of_toNat_eq
  rw [BitVec.toNat_setWidth, BitVec.toNat_ushiftRight, toNat_pcrExtOperand, BitVec.toNat_ofNat,
    Nat.shiftRight_eq_div_pow]

/-- `ext >> 8` lies inside SET_PCR_EXT's mask of byte 10 (R172). -/
theorem pcrExtOperand_high_inside_mask (d : Operand) :
    (pcrExtOperand d >>> 8).setWidth 8 &&& 0x01#8 = (pcrExtOperand d >>> 8).setWidth 8 := by
  have hlow : ((pcrExtOperand d >>> 8).setWidth 8 &&& 0x01#8).toNat =
      ((pcrExtOperand d >>> 8).setWidth 8).toNat % 2 ^ 1 := toNat_and_mask 1 rfl
  apply BitVec.eq_of_toNat_eq
  rw [hlow, pcrExtOperand_high_eq_ofNat, BitVec.toNat_ofNat]
  omega

/-- Settles O39: an RMW of bit 0 of byte 10, byte 11 overwritten. -/
theorem setPcrExtWritesNineBits : Obligations.SetPcrExtWritesNineBits := by
  refine ⟨encodes_of_encode_eq rfl rfl, fun s => completes_of_fieldSetter rfl fun j => ?_⟩
  by_cases h10 : j = 10
  · subst h10
    rw [← pcrExtOperand_high_eq_ofNat]
    exact mergeByte_eq_or (mask := 0x01) rfl (pcrExtOperand_high_inside_mask s.din)
  by_cases h11 : j = 11
  · subst h11
    rw [← pcrExtOperand_low_eq_ofNat]
    exact mergeByte_full _ _
  simp [writeMask, maskAt, h10, h11]

/-! ### Getters -/

/-- Settles O38: the base as a number, before and after SET_PCR_BASE. -/
theorem getPcrBaseReadsBackSetPcrBase : Obligations.GetPcrBaseReadsBackSetPcrBase := by
  refine ⟨encodes_of_encode_eq rfl rfl, fun s => completes_of_respond_number rfl ?_, fun s => ?_⟩
  · simp only [s.buf.toNat_pcrBase, State.buf_read, Nat.add_assoc]
    rfl
  · obtain ⟨t, ht, -⟩ := exec_merges .setPcrBase s
    exact ⟨t, ht, completes_of_respond_number rfl (toNat_pcrBase_of_exec_setPcrBase ht)⟩

/-- Settles O40: the extension as a number, before and after SET_PCR_EXT. -/
theorem getPcrExtReadsBackSetPcrExt : Obligations.GetPcrExtReadsBackSetPcrExt := by
  refine ⟨encodes_of_encode_eq rfl rfl, fun s => completes_of_respond_number rfl s.buf.toNat_pcrExt,
    fun s => ?_⟩
  obtain ⟨t, ht, -⟩ := exec_merges .setPcrExt s
  exact ⟨t, ht, completes_of_respond_number rfl (toNat_pcrExt_of_exec_setPcrExt ht)⟩

/-! ### What the getters see, and the reserved bits -/

theorem or_and_eq_right (b m : Byte) : (b ||| m) &&& m = m := by
  ext k hk
  cases hm : m[k] <;> simp [hm]

theorem and_eq_and_of_subset {b c mask sub : Byte} (h : b &&& mask = c &&& mask)
    (hsub : mask &&& sub = sub) : b &&& sub = c &&& sub := by
  rw [← hsub, ← BitVec.and_assoc, h, BitVec.and_assoc]

theorem and_or_eq_of_and_eq {b c m n : Byte} (hm : b &&& m = c &&& m) (hn : b &&& n = c &&& n) :
    b &&& (m ||| n) = c &&& (m ||| n) := by
  rw [BitVec.and_or_distrib_left, BitVec.and_or_distrib_left, hm, hn]

theorem and_maskAt_eq {f g : Index → Byte} {k : Index} {m : Byte} (h : f k &&& m = g k &&& m)
    (j : Index) : f j &&& maskAt k m j = g j &&& maskAt k m j := by
  by_cases hj : j = k
  · simp [hj, maskAt, h]
  · simp [hj, maskAt]

/-- Only SET_PCR_BASE and SET_AF_LEN among the field setters write a reserved bit (R175). -/
theorem pcr_reserved_writer_cases {cfg : Config} {din : Operand} {i : Instr}
    (hi : isFieldSetter i = true) (hmask : writeMask cfg din i 10 &&& 0x7E ≠ 0) :
    i = .setPcrBase ∨ i = .setAfLen := by
  cases i with
  | setPcrBase => exact .inl rfl
  | setAfLen => exact .inr rfl
  | setPcrExt => exact absurd (rfl : 0x01#8 &&& 0x7E#8 = 0) hmask
  | setTei | setPusi | setTp | setPid | setSc | setPayload | setCc | ccReset | setDisc | clrDisc
  | setRai | setEspi | setPcrf => exact absurd BitVec.zero_and hmask
  | _ => exact nomatch hi

/-- Settles O41: the getters decode the bits of their fields' masks, SET_PCR_BASE ORs the reserved bits
in, and a command that changes them writes them. -/
theorem pcrGettersSeePcrBitsOnly : Obligations.PcrGettersSeePcrBitsOnly := by
  refine ⟨fun s s' h6 h7 h8 h9 h10 h11 => ?getters, fun s => ?restored,
    fun i s t he hchanged => ?changers⟩
  case getters =>
    have hwhole {k : Index} (h : s.readB k = s'.readB k) (j : Index) :
        s.buf.read j &&& maskAt k 0xFF j = s'.buf.read j &&& maskAt k 0xFF j :=
      and_maskAt_eq (congrArg (· &&& 0xFF#8) h) j
    have hbits {m : Byte} (hm : 0x81#8 &&& m = m) (j : Index) :
        s.buf.read j &&& maskAt 10 m j = s'.buf.read j &&& maskAt 10 m j :=
      and_maskAt_eq (and_eq_and_of_subset h10 hm) j
    have hbase : Field.pcrBase.value s.buf = Field.pcrBase.value s'.buf :=
      Field.pcrBase.value_eq_of_and_mask_eq fun j =>
        and_or_eq_of_and_eq (and_or_eq_of_and_eq (and_or_eq_of_and_eq (and_or_eq_of_and_eq
          (hwhole h6 j) (hwhole h7 j)) (hwhole h8 j)) (hwhole h9 j)) (hbits rfl j)
    have hext : Field.pcrExt.value s.buf = Field.pcrExt.value s'.buf :=
      Field.pcrExt.value_eq_of_and_mask_eq fun j =>
        and_or_eq_of_and_eq (hbits rfl j) (hwhole h11 j)
    exact ⟨_, _, (completes_of_exec_eq_respond rfl).congr_dout hbase, completes_of_exec_eq_respond rfl,
      (completes_of_exec_eq_respond rfl).congr_dout hext, completes_of_exec_eq_respond rfl⟩
  case restored =>
    obtain ⟨-, hset⟩ := setPcrBaseWritesThirtyThreeBits
    obtain ⟨t, ht, -, -, hread, -⟩ := hset s
    have h10 : t.readB 10 = (s.readB 10 &&& 0x01) ||| _ ||| 0x7E := hread 10
    exact ⟨t, ht, h10 ▸ or_and_eq_right _ _⟩
  case changers =>
    obtain h | h | h | ⟨hsetter, hmask⟩ := changer_cases he hchanged
    · exact .inr (.inr (.inl h))
    · exact .inr (.inr (.inr (.inl h)))
    · exact .inr (.inr (.inr (.inr h)))
    · exact (pcr_reserved_writer_cases hsetter hmask).imp_right .inl

end Sys2Proof.Machine
end

section
/-! SUPPORT. The packet view (44_packet_view.md R190 to R196): the commands that write the whole buffer, the
block ports, single bytes, and what every getter returns on the null packet. -/

namespace Sys2Proof.Machine

/-! ### The whole buffer -/

/-- A command that replaces the buffer by an image completes with the image's bytes, whatever they were. -/
theorem completes_of_exec_eq_image {i : Instr} {s : State} {f : Index → Byte}
    (h : exec i s = .next ((s.withBuf (Memory.ofBytes f)).respond 0)) : Completes i s 0 f :=
  ⟨_, h, rfl, rfl, Memory.read_ofBytes f, (s.keeps_withBuf _).trans (State.keeps_respond _ 0)⟩

theorem Completes.congr_bytes {i : Instr} {s : State} {d : Operand} {f g : Index → Byte}
    (h : Completes i s d f) (hfg : ∀ j, f j = g j) : Completes i s d g :=
  funext hfg ▸ h

/-- Settles O42: the image of the null packet, whose bytes are R190's. -/
theorem nullPktWritesTheNullPacket : Obligations.NullPktWritesTheNullPacket :=
  ⟨encodes_of_encode_eq rfl rfl, fun s =>
    (completes_of_exec_eq_image rfl).congr_bytes (nullByte_eq_ite s.cfg)⟩

/-- Settles O44: the image of BLK_IN's lanes. -/
theorem blkLoadReplacesEveryByte : Obligations.BlkLoadReplacesEveryByte :=
  ⟨encodes_of_encode_eq rfl rfl, fun _ => completes_of_exec_eq_image rfl⟩

/-- Settles O45: the lanes of the packed block are the bytes. -/
theorem blkReadReturnsEveryByte : Obligations.BlkReadReturnsEveryByte :=
  ⟨encodes_of_encode_eq rfl rfl, fun s =>
    ⟨_, rfl, rfl, rfl, rfl, s.keeps_respondBlock _, laneOf_packLanes s.readB⟩⟩

/-- The 188 lanes are all of a block (20_memory.md R44). -/
theorem block_eq_of_lanes {a b : Block} (h : ∀ j, laneOf a j = laneOf b j) : a = b := by
  rw [← packLanes_laneOf a, ← packLanes_laneOf b, funext h]

/-- Settles O46: BLK_LOAD and BLK_READ pass each byte through the same lane, and a canonical buffer is
determined by its bytes. -/
theorem rawConversionsAreLossless : Obligations.RawConversionsAreLossless := by
  obtain ⟨-, hload⟩ := blkLoadReplacesEveryByte
  obtain ⟨-, hread⟩ := blkReadReturnsEveryByte
  refine ⟨fun s x => ?loadThenRead, fun s => ?readThenLoad⟩
  case loadThenRead =>
    obtain ⟨t, ht, -, -, hbytes, -⟩ := hload (s.withBlkIn x)
    obtain ⟨u, hu, -, -, -, -, hlanes⟩ := hread t
    exact ⟨t, u, ht, hu, block_eq_of_lanes fun j => (hlanes j).trans (hbytes j)⟩
  case readThenLoad =>
    obtain ⟨t, ht, -, -, hbuf, -, hlanes⟩ := hread s
    obtain ⟨u, hu, -, -, hbytes, -⟩ := hload (t.withBlkIn t.blkOut)
    have hsame : ∀ j, u.readB j = s.readB j := fun j => (hbytes j).trans (hlanes j)
    refine ⟨t, u, ht, hu, hsame, fun hwf => ?_⟩
    have ht : t.buf.wf := hbuf ▸ hwf
    exact Memory.eq_of_read _ _ (exec_wf hu ht) hwf hsame

/-! ### Single bytes -/

/-- The word of an indexed command: the index above the OP column (30_encoding.md R62). -/
theorem encodes_indexed {i : Instr} {idx : BitVec 8} {op : Nat} (hwf : i.wf = true)
    (hidx : indexOf i = idx) (hop : (opcodeOf i).toNat = op) :
    Encodes (BitVec.ofNat 16 (idx.toNat * 256 + op)) i := by
  refine encodes_of_encode_eq hwf (BitVec.eq_of_toNat_eq ?_)
  have hhigh : ((indexOf i).setWidth 16).toNat = idx.toNat := by
    rw [hidx, BitVec.toNat_setWidth_of_le (by decide)]
  have hlow : ((0b00#2).setWidth 16 <<< 6 ||| (opcodeOf i).setWidth 16).toNat = op := by
    rw [show (0b00#2).setWidth 16 <<< 6 = 0#16 from rfl, BitVec.zero_or,
      BitVec.toNat_setWidth_of_le (by decide), hop]
  rw [encode, BitVec.or_assoc, toNat_shiftLeft_or hhigh hlow 8 (by omega) (by omega),
    BitVec.toNat_ofNat]
  omega

theorem answeredIllegal_of_exec_eq_raiseIllegal {i : Instr} {s : State}
    (h : exec i s = .next s.raiseIllegal) : AnsweredIllegal i s :=
  ⟨_, h, rfl, rfl, rfl, s.keeps_raiseIllegal⟩

/-- Settles O47: an index in range names the byte responded with, any other is answered ILLEGAL. -/
theorem byteRdReturnsTheIndexedByte : Obligations.ByteRdReturnsTheIndexedByte :=
  ⟨fun _ hidx => encodes_indexed (decide_eq_true hidx) rfl rfl, completes_byteRd, fun s idx hidx =>
    answeredIllegal_of_exec_eq_raiseIllegal (exec_byteRd_of_ge s idx hidx)⟩

/-- BYTE_WR's operand as a number (30_encoding.md R63). -/
theorem byteOperand_eq_ofNat (d : Operand) : byteOperand d = BitVec.ofNat 8 d.toNat := by
  apply BitVec.eq_of_toNat_eq
  simp [byteOperand, BitVec.extractLsb'_toNat]

theorem completes_byteWr (s : State) (idx : BitVec 8) (i : Index) (h : idx.toNat = i.val) :
    Completes (.byteWr idx) s 0 fun j => if j = i then BitVec.ofNat 8 s.din.toNat else s.readB j := by
  have hi : (⟨idx.toNat, h ▸ i.isLt⟩ : Index) = i := Fin.ext h
  have he : exec (.byteWr idx) s = .next ((s.writeB i (byteOperand s.din)).respond 0) :=
    hi ▸ exec_byteWr_of_lt s idx _
  rw [← byteOperand_eq_ofNat]
  exact ⟨_, he, rfl, rfl, fun j => s.readB_writeB i j _,
    (s.keeps_writeB i _).trans (State.keeps_respond _ 0)⟩

/-- Settles O48: an index in range names the one byte written, any other is answered ILLEGAL. -/
theorem byteWrWritesTheIndexedByte : Obligations.ByteWrWritesTheIndexedByte :=
  ⟨fun _ hidx => encodes_indexed (decide_eq_true hidx) rfl rfl, completes_byteWr, fun s idx hidx =>
    answeredIllegal_of_exec_eq_raiseIllegal (exec_byteWr_of_ge s idx hidx)⟩

/-! ### The fields of the null packet -/

theorem exec_nullPkt_buf {s t : State} (he : exec .nullPkt s = .next t) : t.buf = nullPacket s.cfg := by
  cases he
  rfl

section
variable {cfg : Config}

/-- The bytes after the header are stuffing, so every field there is all ones (R190). -/
theorem nullPacket_read_of_four_le {j : Index} (hj : 4 ≤ j.val) : (nullPacket cfg).read j = 0xFF := by
  have hne (k : Index) (hk : k.val ≤ 3) : j ≠ k := by rintro rfl; omega
  simp [nullByte_eq_ite, hne]

theorem toNat_pcrBase_nullPacket : (nullPacket cfg).pcrBase.toNat = 0x1FFFFFFFF := by
  simp [Memory.toNat_pcrBase, nullPacket_read_of_four_le, -nullPacket_read]

theorem toNat_pcrExt_nullPacket : (nullPacket cfg).pcrExt.toNat = 511 := by
  simp [Memory.toNat_pcrExt, nullPacket_read_of_four_le, -nullPacket_read]

theorem flagResult_byte_five_nullPacket {m : Byte} (hm : m ≠ 0) :
    flagResult (bitsSet ((nullPacket cfg).read 5) m) = 1 := by
  have hones : (nullPacket cfg).read 5 &&& m = m := by
    rw [nullPacket_read_of_four_le (by decide)]
    exact BitVec.allOnes_and
  rw [flagResult_bitsSet_eq_ite, hones, if_pos hm]

variable (h : cfg.wf)
include h

/-- R8 admits only a `NULL_B1` whose PID bits are ones. -/
theorem toNat_pid_nullPacket : (nullPacket cfg).pid.toNat = 0x1FFF := by
  obtain ⟨h1, -⟩ := h
  have hhigh : cfg.nullB1.toNat % 32 = 31 :=
    calc cfg.nullB1.toNat % 32 = (cfg.nullB1 &&& 0x1F#8).toNat := (toNat_and_mask 5 rfl).symm
      _ = 31 := congrArg BitVec.toNat h1
  have hread : (nullPacket cfg).read 1 = cfg.nullB1 := nullPacket_read cfg 1
  have hread' : (nullPacket cfg).read 2 = 0xFF := nullPacket_read cfg 2
  rw [Memory.toNat_pid, hread, hread', hhigh]
  rfl

/-- R8 admits only a `NULL_B3` whose continuity counter is 0. -/
theorem toNat_continuity_nullPacket : (nullPacket cfg).continuity.toNat = 0 := by
  obtain ⟨-, h3⟩ := h
  have hlow : cfg.nullB3 &&& 0x0F#8 = 0x00#8 &&& 0x0F#8 :=
    and_eq_and_of_subset (mask := 0x2F#8) h3 rfl
  have hread : (nullPacket cfg).read 3 = cfg.nullB3 := nullPacket_read cfg 3
  calc (nullPacket cfg).continuity.toNat = cfg.nullB3.toNat % 16 := hread ▸ Memory.toNat_continuity _
    _ = (cfg.nullB3 &&& 0x0F#8).toNat := (toNat_and_mask 4 rfl).symm
    _ = 0 := congrArg BitVec.toNat hlow

theorem flagResult_af_present_nullPacket : flagResult (bitsSet ((nullPacket cfg).read 3) 0x20) = 0 := by
  have hread : (nullPacket cfg).read 3 = cfg.nullB3 := nullPacket_read cfg 3
  rw [hread, flagResult_bitsSet_eq_ite, nullB3_af_absent h]
  rfl

end

/-- Settles O43: each getter returns its field of the null packet; the flags of bytes 1 and 3 are bits of
the configuration's two bytes. -/
theorem nullPacketFieldValues : Obligations.NullPacketFieldValues := by
  intro s hwf
  obtain ⟨-, hnull⟩ := nullPktWritesTheNullPacket
  obtain ⟨t, ht, -, -, hread, -⟩ := hnull s
  have hbuf : t.buf = nullPacket s.cfg := exec_nullPkt_buf ht
  have h1 : t.buf.read 1 = s.cfg.nullB1 := hread 1
  have h3 : t.buf.read 3 = s.cfg.nullB3 := hread 3
  have h4 : t.buf.read 4 = 0xFF := hread 4
  have htop : s.cfg.nullB1.toNat / 2 ^ 7 % 2 = s.cfg.nullB1.toNat / 128 := by omega
  have hflag {k : Index} {b mask : Byte} (hk : t.buf.read k = b) (n : Nat)
      (hmask : mask = BitVec.twoPow 8 n) (hn : n < 8) :
      flagResult (bitsSet (t.buf.read k) mask) = BitVec.ofNat 64 (b.toNat / 2 ^ n % 2) :=
    hk ▸ flagResult_bitsSet n hmask hn
  have hone {m : Byte} (hm : m ≠ 0) : flagResult (bitsSet (t.buf.read 5) m) = 1 :=
    hbuf ▸ flagResult_byte_five_nullPacket hm
  obtain ⟨htei, hpusi, htp, hpid, hsc, hafc, hpayload, hcc, hafLen, hdisc, hrai, hespi, hpcrf, hbase,
    hext⟩ := gettersReturnTheirMappedField t
  exact ⟨t, ht, completes_syncOk_of_sync (hread 0),
    htei.congr_dout ((hflag h1 7 rfl (by decide)).trans (congrArg _ htop)),
    hpusi.congr_dout (hflag h1 6 rfl (by decide)),
    htp.congr_dout (hflag h1 5 rfl (by decide)),
    hpid.congr_dout (setWidth_eq_ofNat (hbuf ▸ toNat_pid_nullPacket hwf)),
    hsc.congr_dout (setWidth_eq_ofNat (h3 ▸ t.buf.toNat_scrambling)),
    hafc.congr_dout (hbuf ▸ flagResult_af_present_nullPacket hwf),
    hpayload.congr_dout (hflag h3 4 rfl (by decide)),
    hcc.congr_dout (setWidth_eq_ofNat (hbuf ▸ toNat_continuity_nullPacket hwf)),
    hafLen.congr_dout (congrArg (·.setWidth 64) h4),
    hdisc.congr_dout (hone (by decide)), hrai.congr_dout (hone (by decide)),
    hespi.congr_dout (hone (by decide)), hpcrf.congr_dout (hone (by decide)),
    hbase.congr_dout (setWidth_eq_ofNat (hbuf ▸ toNat_pcrBase_nullPacket)),
    hext.congr_dout (setWidth_eq_ofNat (hbuf ▸ toNat_pcrExt_nullPacket))⟩

end Sys2Proof.Machine
end

section
/-! SUPPORT. Responses: the `STATUS` of legal and illegal words, and what an ILLEGAL response leaves for
the next command (60_exceptions.md R210, R212, R216). -/

namespace Sys2Proof.Machine

/-- Settles O10: the only response that is not OK is that to an index which well-formedness excludes. -/
theorem everyWellFormedCommandCompletes : Obligations.EveryWellFormedCommandCompletes := by
  intro i s hwf
  cases i with
  | byteRd idx =>
    have hidx : idx.toNat ≤ 187 := of_decide_eq_true hwf
    exact ⟨_, exec_byteRd_of_lt s idx (Nat.lt_succ_of_le hidx), rfl⟩
  | byteWr idx =>
    have hidx : idx.toNat ≤ 187 := of_decide_eq_true hwf
    exact ⟨_, exec_byteWr_of_lt s idx (Nat.lt_succ_of_le hidx), rfl⟩
  -- The arm of a command without an index ends in an OK response on every path.
  | _ => exact ⟨_, rfl, rfl⟩

/-- A word that meets no condition of R66 stands for a well-formed command. -/
theorem exists_wf_of_not_illegalWord {w : Word} (h : ¬ IllegalWord w) :
    ∃ i, decode w = .legal i ∧ i.wf = true := by
  cases hd : decode w with
  | legal i => exact ⟨i, rfl, (legalWordReencodesToItself w i hd).left⟩
  | illegal c => exact absurd ((decode_illegal_iff w).mp ⟨c, hd⟩) h

/-- Settles O9: a legal word is a well-formed command, which completes; an illegal word is answered as
R66 says. -/
theorem statusIsOkForLegalWordsOnly : Obligations.StatusIsOkForLegalWordsOnly := by
  intro s t rest hp
  by_cases hw : IllegalWord t.cmd
  · obtain ⟨-, hanswer⟩ := wordsAreIllegalExactlyAsRule66Says
    obtain ⟨u, hu, hstatus, -⟩ := hanswer s t rest hp hw
    exact ⟨u, hu, (absurd hw ·), fun _ => hstatus⟩
  · obtain ⟨i, hd, hwf⟩ := exists_wf_of_not_illegalWord hw
    obtain ⟨u, hu, hstatus⟩ := everyWellFormedCommandCompletes i (s.accept t rest) hwf
    exact ⟨u, (step_of_legal s t rest i hp hd).trans hu, fun _ => hstatus, (absurd · hw)⟩

/-- A step on a presented word takes that word from the queue and nothing else. -/
theorem step_command_pending {s u : State} {t : Transaction} {rest : List HostEvent}
    (hp : s.pending = .command t :: rest) (hu : step s = .next u) : u.pending = rest := by
  cases hd : decode t.cmd with
  | legal i =>
    obtain ⟨-, hpending, -⟩ := exec_keeps ((step_of_legal s t rest i hp hd).symm.trans hu)
    exact hpending.trans (s.accept_pending t rest)
  | illegal c =>
    obtain rfl := Host.Outcome.next.inj ((step_of_illegal s t rest c hp hd).symm.trans hu)
    rfl

/-- Settles O8: an illegal word keeps buffer and configuration, which are all that the next command
depends on (O14). -/
theorem commandAfterIllegalWordIsServedAsUsual :
    Obligations.CommandAfterIllegalWordIsServedAsUsual := by
  intro s a b rest hp hw
  obtain ⟨-, hanswer⟩ := wordsAreIllegalExactlyAsRule66Says
  obtain ⟨u, hu, -, -, hbuf, hcfg, hpu⟩ := hanswer s a _ hp hw
  obtain ⟨v, v', hv, hv', hbuf', hstatus, hdout, -⟩ :=
    onlyTheBufferIsCarriedBetweenCommands u { s with pending := .command b :: rest } b rest rest
      hpu rfl hcfg hbuf
  have hcfg' : v.cfg = v'.cfg := ((step_cfg hv).trans hcfg).trans (step_cfg hv').symm
  have hpending : v.pending = v'.pending :=
    (step_command_pending hpu hv).trans (step_command_pending rfl hv').symm
  exact ⟨u, v, v', hu, hv, hv', hstatus, hdout, hbuf', hcfg', hpending⟩

end Sys2Proof.Machine
end

section
/-! SUPPORT. Reset, waiting and the hazards between commands (70_reset_and_hazards.md R240 to R247): what a
reset leaves, which of two writes stays, and what declaring an adaptation field erases or makes valid. -/

namespace Sys2Proof.Machine

/-! ### Declaring a field and writing its PCR -/

theorem exec_setAfLen_reads_declared {s : State} (hlen : s.din.toNat % 256 ≠ 0) :
    ∃ t, exec .setAfLen s = .next t ∧ ∀ j, t.readB j = (s.afLenDeclare (afLenOperand s.din)).readB j :=
  ⟨_, exec_setAfLen_of_ne_zero hlen, State.readB_respond _ 0⟩

/-- A length clears byte 5, whatever the fill reaches (R140). -/
theorem State.readB_five_afLenDeclare (s : State) (len : Byte) : (s.afLenDeclare len).readB 5 = 0 := by
  simp [s.readB_afLenDeclare]

theorem State.readB_three_afLenDeclare (s : State) (len : Byte) :
    (s.afLenDeclare len).readB 3 = s.readB 3 ||| 0x20 := by
  simp [s.readB_afLenDeclare]

/-- A length leaves the sync byte and the PID (R140). -/
theorem State.readB_afLenDeclare_of_le_two (s : State) (len : Byte) {j : Index} (hj : j.val ≤ 2) :
    (s.afLenDeclare len).readB j = s.readB j := by
  have hne (k : Index) (hk : 3 ≤ k.val) : j ≠ k := by rintro rfl; omega
  have hunfilled : ¬(2 ≤ len.toNat ∧ 6 ≤ j.val ∧ j.val ≤ fillEnd s.cfg len) := by omega
  rw [s.readB_afLenDeclare, if_neg hunfilled]
  simp [hne]

/-- Under TO_END the stuffing reaches the end of the packet (R141). -/
theorem State.readB_afLenDeclare_of_toEnd (s : State) {len : Byte} (hlen : 2 ≤ len.toNat)
    (hfill : s.cfg.afFill = .toEnd) {j : Index} (hj : 6 ≤ j.val) :
    (s.afLenDeclare len).readB j = 0xFF := by
  have hend : j.val ≤ fillEnd s.cfg len := by
    rw [fillEnd, hfill]
    exact Nat.le_of_lt_succ j.isLt
  rw [s.readB_afLenDeclare, if_pos ⟨hlen, hj, hend⟩]

theorem Memory.toNat_pcrBase_of_stuffed {m : Memory} (h : ∀ j : Index, 6 ≤ j.val → m.read j = 0xFF) :
    m.pcrBase.toNat = 0x1FFFFFFFF := by
  simp [m.toNat_pcrBase, h]

theorem Memory.toNat_pcrExt_of_stuffed {m : Memory} (h : ∀ j : Index, 6 ≤ j.val → m.read j = 0xFF) :
    m.pcrExt.toNat = 511 := by
  simp [m.toNat_pcrExt, h]

section
variable {t u v : State} {base ext : Operand} (hbase : exec .setPcrBase (t.withDin base) = .next u)
  (hext : exec .setPcrExt (u.withDin ext) = .next v)
include hbase hext

/-- Writing a PCR leaves the header and the length byte (R170, R172). -/
theorem readB_of_pcr_written {j : Index} (hj : j.val < 5) : v.readB j = t.readB j := by
  have hne (k : Index) (hk : 5 ≤ k.val) : j ≠ k := by rintro rfl; omega
  calc v.readB j = u.readB j := readB_of_exec_of_unwritten hext j (by simp [writeMask, maskAt, hne])
    _ = t.readB j := readB_of_exec_of_unwritten hbase j (by simp [writeMask, maskAt, hne])

/-- Writing a PCR sets the PCR-present flag (R170). -/
theorem readB_five_of_pcr_written : v.readB 5 = t.readB 5 ||| 0x10 :=
  calc v.readB 5 = u.readB 5 := readB_of_exec_of_unwritten hext 5 rfl
    _ = mergeByte (t.readB 5) 0x10 0xFF := readB_of_exec hbase 5
    _ = t.readB 5 ||| 0x10 := mergeByte_ones _ _

theorem toNat_pcrBase_of_pcr_written : v.buf.pcrBase.toNat = base.toNat % 2 ^ 33 :=
  (toNat_pcrBase_of_exec_setPcrExt hext).trans (toNat_pcrBase_of_exec_setPcrBase hbase)

end

/-- Settles O58: byte 4 holds the length, bytes 3 and 5 the presence bits, and the PCR is written last. -/
theorem declaredFieldThenPcrMeetsCallerObligations :
    Obligations.DeclaredFieldThenPcrMeetsCallerObligations := by
  intro s len base ext hmin hmax
  have hlen : (s.withDin len).din.toNat % 256 ≠ 0 := by
    rw [State.withDin_din]
    omega
  obtain ⟨t, ht, hread⟩ := exec_setAfLen_reads_declared hlen
  obtain ⟨u, hu, -⟩ := exec_merges .setPcrBase (t.withDin base)
  obtain ⟨v, hv, -⟩ := exec_merges .setPcrExt (u.withDin ext)
  have hlow {j : Index} (hj : j.val ≤ 2) : v.readB j = s.readB j := by
    rw [readB_of_pcr_written hu hv (by omega), hread]
    exact State.readB_afLenDeclare_of_le_two _ _ hj
  have h3 : v.readB 3 = s.readB 3 ||| 0x20 := by
    rw [readB_of_pcr_written hu hv (by decide), hread]
    exact State.readB_three_afLenDeclare _ _
  have h4 : (v.readB 4).toNat = len.toNat := by
    rw [readB_of_pcr_written hu hv (by decide), hread, State.readB_four_afLenDeclare,
      toNat_afLenOperand, State.withDin_din]
    omega
  have hpresent : v.readB 3 &&& 0x20 ≠ 0 := by
    rw [h3, or_and_eq_right]
    decide
  have hpcrPresent : v.readB 5 &&& 0x10 ≠ 0 := by
    rw [readB_five_of_pcr_written hu hv, or_and_eq_right]
    decide
  have hpending : v.pending = s.pending := by
    obtain ⟨-, ht', -⟩ := exec_keeps ht
    obtain ⟨-, hu', -⟩ := exec_keeps hu
    obtain ⟨-, hv', -⟩ := exec_keeps hv
    exact hv'.trans (hu'.trans ht')
  refine ⟨t, u, v, ht, hu, hv, ?sync, ?range, ?meaningful, ?inside, ?flags, ?pcrInside, ?serial,
    ?baseRead, ?extRead, fun j hj => hlow hj⟩
  case sync => exact fun hsync => (hlow (Nat.zero_le 2)).trans hsync
  case range => exact h4.trans_le hmax
  case meaningful => exact ⟨hpresent, hpcrPresent⟩
  case inside =>
    intro j h6 h11
    rw [State.insideField, h4]
    omega
  case flags => exact ⟨hpresent, by omega⟩
  case pcrInside => exact hmin.trans_eq h4.symm
  case serial => exact fun hserial => by rwa [State.serialised, hpending]
  case baseRead => exact completes_of_respond_number rfl (toNat_pcrBase_of_pcr_written hu hv)
  case extRead => exact completes_of_respond_number rfl (toNat_pcrExt_of_exec_setPcrExt hv)

/-- Settles O36: byte 5 is zero, and under TO_END every byte from 6 on is stuffing. -/
theorem setAfLenErasesFlagsPcrAndPayload : Obligations.SetAfLenErasesFlagsPcrAndPayload := by
  intro s hlen
  obtain ⟨t, ht, hread⟩ := exec_setAfLen_reads_declared hlen
  have hflag (m : Byte) : flagResult (bitsSet (t.readB 5) m) = 0 := by
    rw [hread, State.readB_five_afLenDeclare, flagResult_bitsSet_eq_ite]
    exact if_neg (not_not.mpr BitVec.zero_and)
  obtain ⟨-, -, -, -, -, -, -, -, -, hdisc, hrai, hespi, hpcrf, -⟩ := gettersReturnTheirMappedField t
  refine ⟨t, ht, hdisc.congr_dout (hflag _), hrai.congr_dout (hflag _), hespi.congr_dout (hflag _),
    hpcrf.congr_dout (hflag _), fun htwo hfill => ?_⟩
  have hstuffed (j : Index) (hj : 6 ≤ j.val) : t.readB j = 0xFF :=
    (hread j).trans
      (s.readB_afLenDeclare_of_toEnd (htwo.trans_eq (toNat_afLenOperand _).symm) hfill hj)
  exact ⟨completes_of_respond_number rfl (Memory.toNat_pcrBase_of_stuffed hstuffed),
    completes_of_respond_number rfl (Memory.toNat_pcrExt_of_stuffed hstuffed),
    fun j hj => hstuffed j (by omega)⟩

/-! ### Two writes of the same bits -/

theorem mergeByte_overwrite (old mask v w : Byte) :
    mergeByte (mergeByte old mask v) mask w = mergeByte old mask w := by
  ext k hk
  cases hm : mask[k] <;> simp [getElem_mergeByte, hm]

/-- Of two commands with one write set the second leaves the bytes it leaves alone (R244). -/
theorem readB_of_exec_after_same_writeMask {a b : Instr} {x y : Operand} {s t u v : State}
    (hmask : writeMask s.cfg x a = writeMask s.cfg y b) (ht : exec a (s.withDin x) = .next t)
    (hu : exec b (t.withDin y) = .next u) (hv : exec b (s.withDin y) = .next v) (j : Index) :
    u.readB j = v.readB j := by
  obtain ⟨⟨hcfg, -, -, hblk⟩, hread⟩ := merges_of_exec ht
  rw [readB_of_exec hu, readB_of_exec hv]
  simp only [State.readB_withDin, State.withDin_cfg, State.withDin_din, State.withDin_blkIn]
    at hcfg hblk hread ⊢
  rw [hread, hcfg, hblk, hmask, mergeByte_overwrite]

/-- Settles O55: each pair writes the same bits twice; SET_DISC and CLR_DISC write DISC apart. -/
theorem lastWriteOfAFieldWins : Obligations.LastWriteOfAFieldWins := by
  refine ⟨fun i x y s hi => ?values, fun s => ?disc⟩
  case values =>
    obtain ⟨t, ht, -⟩ := exec_merges i (s.withDin x)
    obtain ⟨u, hu, -⟩ := exec_merges i (t.withDin y)
    obtain ⟨v, hv, -⟩ := exec_merges i (s.withDin y)
    have hmask : writeMask s.cfg x i = writeMask s.cfg y i := by
      obtain rfl | rfl | rfl | rfl | rfl := hi <;> rfl
    exact ⟨t, u, v, ht, hu, hv, readB_of_exec_after_same_writeMask hmask ht hu hv⟩
  case disc =>
    obtain ⟨t, ht, ⟨-, -, hdin, -⟩, -⟩ := exec_merges .setDisc s
    obtain ⟨u, hu, -⟩ := exec_merges .clrDisc t
    obtain ⟨t', ht', ⟨-, -, hdin', -⟩, -⟩ := exec_merges .clrDisc s
    obtain ⟨u', hu', -⟩ := exec_merges .setDisc t'
    have hclr : exec .clrDisc (t.withDin s.din) = .next u := hdin ▸ hu
    have hset : exec .setDisc (t'.withDin s.din) = .next u' := hdin' ▸ hu'
    have hzero : u.readB 5 &&& 0x80 = 0 := readB_of_exec hu 5 ▸ mergeByte_and_mask (t.readB 5) 0x80 0
    have hone : u'.readB 5 &&& 0x80 = 0x80 :=
      readB_of_exec hu' 5 ▸ mergeByte_and_mask (t'.readB 5) 0x80 0xFF
    refine ⟨t, u, t', u', ht, hu, ht', hu',
      readB_of_exec_after_same_writeMask (a := .setDisc) (b := .clrDisc) rfl ht hclr ht',
      readB_of_exec_after_same_writeMask (a := .clrDisc) (b := .setDisc) rfl ht' hset ht,
      fun heq => ?_⟩
    rw [heq, hone] at hzero
    exact absurd hzero (by decide)

/-! ### Reset and waiting -/

/-- Settles O16: a reset takes the buffer of its mode, which under NULL_PACKET is NULL_PKT's. -/
theorem resetLeavesTheBufferOfItsMode : Obligations.ResetLeavesTheBufferOfItsMode := by
  intro s cut rest hp
  refine ⟨s.takeReset rest, step_of_reset s cut rest hp, rfl, rfl, rfl, rfl, fun hmode => ?null,
    fun hmode j => resetBuffer_read_of_unspecified s.cfg s.draws j hmode⟩
  case null =>
    obtain ⟨u, hu, -⟩ := exec_merges .nullPkt s
    exact ⟨u, hu, (resetBuffer_of_nullPacket s.cfg s.draws hmode).trans (exec_nullPkt_buf hu).symm⟩

/-- Settles O12: with an empty queue the step answers the state it began in. -/
theorem waitsWhileNothingIsPresented : Obligations.WaitsWhileNothingIsPresented :=
  step_of_idle

end Sys2Proof.Machine
end
